-- ==== Sys2Proof/Word.lean ====
section
/-! DEFINITION. The word types of the machine (spec/10_state.md R13, R16, spec/30_encoding.md R46, R47). All values are
unsigned and bit 0 is the least significant bit (spec/00_scope.md R10). -/

namespace Sys2Proof

/-- One byte: a general register, a memory cell, an immediate `NN` (R13, R32, R47). -/
abbrev Byte := BitVec 8

/-- One 16-bit word: an opcode, `pc`, `I`, a stack entry, the datum of a fatal condition (R16, R18, R19, R46). -/
abbrev Word := BitVec 16

/-- A 4-bit field: a register number `X` or `Y`, a row count `N`, a key number (R47, R49). -/
abbrev Nibble := BitVec 4

/-- The 12-bit immediate `NNN` (R47, R49). -/
abbrev Imm12 := BitVec 12

end Sys2Proof
end

