-- ==== Sys2Proof/Syntax.lean ====
section
/-! DEFINITION. The 34 instructions of spec/opcode_table.json (spec/30_encoding.md R51), one constructor per row, in the
table's order. Operands are typed by their fields' widths (R47), and R49 makes every value of a field legal, so every term is
a well-formed instruction. -/

namespace Sys2Proof

/-- The instruction set (R51). `x` and `y` are the register numbers `X` and `Y`; `nn`, `nnn` and `n` the immediates. -/
inductive Instr where
  /-- 00E0, `CLS` -/
  | cls
  /-- 00EE, `RET` -/
  | ret
  /-- 1NNN, `JP NNN` -/
  | jp (nnn : Imm12)
  /-- 2NNN, `CALL NNN` -/
  | call (nnn : Imm12)
  /-- 3XNN, `SE VX, NN` -/
  | seImm (x : Nibble) (nn : Byte)
  /-- 4XNN, `SNE VX, NN` -/
  | sneImm (x : Nibble) (nn : Byte)
  /-- 5XY0, `SE VX, VY` -/
  | seReg (x y : Nibble)
  /-- 6XNN, `LD VX, NN` -/
  | ldImm (x : Nibble) (nn : Byte)
  /-- 7XNN, `ADD VX, NN` -/
  | addImm (x : Nibble) (nn : Byte)
  /-- 8XY0, `LD VX, VY` -/
  | ldReg (x y : Nibble)
  /-- 8XY1, `OR VX, VY` -/
  | orReg (x y : Nibble)
  /-- 8XY2, `AND VX, VY` -/
  | andReg (x y : Nibble)
  /-- 8XY3, `XOR VX, VY` -/
  | xorReg (x y : Nibble)
  /-- 8XY4, `ADD VX, VY` -/
  | addReg (x y : Nibble)
  /-- 8XY5, `SUB VX, VY` -/
  | subReg (x y : Nibble)
  /-- 8XY6, `SHR VX`: the field `Y` is in the word and ignored (R96) -/
  | shr (x y : Nibble)
  /-- 8XY7, `SUBN VX, VY` -/
  | subnReg (x y : Nibble)
  /-- 8XYE, `SHL VX`: the field `Y` is in the word and ignored (R98) -/
  | shl (x y : Nibble)
  /-- 9XY0, `SNE VX, VY` -/
  | sneReg (x y : Nibble)
  /-- ANNN, `LD I, NNN` -/
  | ldI (nnn : Imm12)
  /-- BNNN, `JP V0, NNN` -/
  | jpV0 (nnn : Imm12)
  /-- CXNN, `RND VX, NN` -/
  | rnd (x : Nibble) (nn : Byte)
  /-- DXYN, `DRW VX, VY, N` -/
  | drw (x y n : Nibble)
  /-- EX9E, `SKP VX` -/
  | skp (x : Nibble)
  /-- EXA1, `SKNP VX` -/
  | sknp (x : Nibble)
  /-- FX07, `LD VX, DT` -/
  | ldVxDt (x : Nibble)
  /-- FX0A, `LD VX, K` -/
  | ldVxK (x : Nibble)
  /-- FX15, `LD DT, VX` -/
  | ldDtVx (x : Nibble)
  /-- FX18, `LD ST, VX` -/
  | ldStVx (x : Nibble)
  /-- FX1E, `ADD I, VX` -/
  | addI (x : Nibble)
  /-- FX29, `LD F, VX` -/
  | ldF (x : Nibble)
  /-- FX33, `LD B, VX` -/
  | ldB (x : Nibble)
  /-- FX55, `LD [I], VX` -/
  | storeRegs (x : Nibble)
  /-- FX65, `LD VX, [I]` -/
  | loadRegs (x : Nibble)
  deriving DecidableEq, Repr

end Sys2Proof
end

