-- ==== Sys2Proof/WellFormed.lean ====
section
/-! DEFINITION. Which 16-bit words are instructions: the opcode map of spec/30_encoding.md R51, transcribed as mask and match
and kept apart from the decoder, so that the two can be compared. A term of Instr is well formed by its operands' types
(R49: every value of a field is legal), so the check is on words. -/

namespace Sys2Proof

/-- One row of the opcode map (R51). -/
structure OpcodeRow where
  mask : Word
  pattern : Word
  deriving DecidableEq, Repr

/-- "the instruction is chosen when `(op AND mask) = match`" (R51). -/
def OpcodeRow.selects (r : OpcodeRow) (w : Word) : Bool := (w &&& r.mask) = r.pattern

/-- The row of R51 that an instruction belongs to. -/
def Instr.row : Instr → OpcodeRow
  | .cls => ⟨0xFFFF, 0x00E0⟩
  | .ret => ⟨0xFFFF, 0x00EE⟩
  | .jp _ => ⟨0xF000, 0x1000⟩
  | .call _ => ⟨0xF000, 0x2000⟩
  | .seImm _ _ => ⟨0xF000, 0x3000⟩
  | .sneImm _ _ => ⟨0xF000, 0x4000⟩
  | .seReg _ _ => ⟨0xF00F, 0x5000⟩
  | .ldImm _ _ => ⟨0xF000, 0x6000⟩
  | .addImm _ _ => ⟨0xF000, 0x7000⟩
  | .ldReg _ _ => ⟨0xF00F, 0x8000⟩
  | .orReg _ _ => ⟨0xF00F, 0x8001⟩
  | .andReg _ _ => ⟨0xF00F, 0x8002⟩
  | .xorReg _ _ => ⟨0xF00F, 0x8003⟩
  | .addReg _ _ => ⟨0xF00F, 0x8004⟩
  | .subReg _ _ => ⟨0xF00F, 0x8005⟩
  | .shr _ _ => ⟨0xF00F, 0x8006⟩
  | .subnReg _ _ => ⟨0xF00F, 0x8007⟩
  | .shl _ _ => ⟨0xF00F, 0x800E⟩
  | .sneReg _ _ => ⟨0xF00F, 0x9000⟩
  | .ldI _ => ⟨0xF000, 0xA000⟩
  | .jpV0 _ => ⟨0xF000, 0xB000⟩
  | .rnd _ _ => ⟨0xF000, 0xC000⟩
  | .drw _ _ _ => ⟨0xF000, 0xD000⟩
  | .skp _ => ⟨0xF0FF, 0xE09E⟩
  | .sknp _ => ⟨0xF0FF, 0xE0A1⟩
  | .ldVxDt _ => ⟨0xF0FF, 0xF007⟩
  | .ldVxK _ => ⟨0xF0FF, 0xF00A⟩
  | .ldDtVx _ => ⟨0xF0FF, 0xF015⟩
  | .ldStVx _ => ⟨0xF0FF, 0xF018⟩
  | .addI _ => ⟨0xF0FF, 0xF01E⟩
  | .ldF _ => ⟨0xF0FF, 0xF029⟩
  | .ldB _ => ⟨0xF0FF, 0xF033⟩
  | .storeRegs _ => ⟨0xF0FF, 0xF055⟩
  | .loadRegs _ => ⟨0xF0FF, 0xF065⟩

/-- One instruction of each row: all operands zero. -/
def Instr.samples : List Instr :=
  [.cls, .ret, .jp 0, .call 0, .seImm 0 0, .sneImm 0 0, .seReg 0 0, .ldImm 0 0, .addImm 0 0, .ldReg 0 0, .orReg 0 0,
   .andReg 0 0, .xorReg 0 0, .addReg 0 0, .subReg 0 0, .shr 0 0, .subnReg 0 0, .shl 0 0, .sneReg 0 0, .ldI 0, .jpV0 0,
   .rnd 0 0, .drw 0 0 0, .skp 0, .sknp 0, .ldVxDt 0, .ldVxK 0, .ldDtVx 0, .ldStVx 0, .addI 0, .ldF 0, .ldB 0,
   .storeRegs 0, .loadRegs 0]

/-- The opcode map: 34 rows (R51). -/
def opcodeMap : List OpcodeRow := Instr.samples.map Instr.row

/-- A word is an instruction when some row of R51 selects it; every other word is unrecognised (R52). -/
def wellFormedWord (w : Word) : Bool := opcodeMap.any (·.selects w)

end Sys2Proof
end

