-- ==== Sys2Proof/Decode.lean ====
section
/-! DEFINITION. The decoder (spec/30_encoding.md R47, R50, R51, R52) and, after it, the encoder written from the same table. -/

namespace Sys2Proof

/-- Why bytes are no instruction. -/
inductive Reject where
  /-- Fewer than two bytes are left: an instruction is exactly two (R46). -/
  | truncated
  /-- The word matches no row of R51 (R52). -/
  | unrecognised (w : Word)
  deriving DecidableEq, Repr

/-! The six overlapping fields of an opcode (R47). -/

/-- `class = op[15:12]` -/
def opClass (w : Word) : Nibble := w.extractLsb' 12 4
/-- `X = op[11:8]` -/
def fieldX (w : Word) : Nibble := w.extractLsb' 8 4
/-- `Y = op[7:4]` -/
def fieldY (w : Word) : Nibble := w.extractLsb' 4 4
/-- `N = op[3:0]` -/
def fieldN (w : Word) : Nibble := w.extractLsb' 0 4
/-- `NN = op[7:0]` -/
def fieldNN (w : Word) : Byte := w.extractLsb' 0 8
/-- `NNN = op[11:0]` -/
def fieldNNN (w : Word) : Imm12 := w.extractLsb' 0 12

/-- Class 0 is matched on the whole word (R50). -/
def decodeClass0 (w : Word) : Except Reject Instr :=
  match fieldNNN w with
  | 0x0E0#12 => .ok .cls
  | 0x0EE#12 => .ok .ret
  | _ => .error (.unrecognised w)

/-- Class 8 is matched on `N` (R50, R51). -/
def decodeClass8 (w : Word) : Except Reject Instr :=
  match fieldN w with
  | 0x0#4 => .ok (.ldReg (fieldX w) (fieldY w))
  | 0x1#4 => .ok (.orReg (fieldX w) (fieldY w))
  | 0x2#4 => .ok (.andReg (fieldX w) (fieldY w))
  | 0x3#4 => .ok (.xorReg (fieldX w) (fieldY w))
  | 0x4#4 => .ok (.addReg (fieldX w) (fieldY w))
  | 0x5#4 => .ok (.subReg (fieldX w) (fieldY w))
  | 0x6#4 => .ok (.shr (fieldX w) (fieldY w))
  | 0x7#4 => .ok (.subnReg (fieldX w) (fieldY w))
  | 0xE#4 => .ok (.shl (fieldX w) (fieldY w))
  | _ => .error (.unrecognised w)

/-- Class E is matched on `NN` (R50, R51). -/
def decodeClassE (w : Word) : Except Reject Instr :=
  match fieldNN w with
  | 0x9E#8 => .ok (.skp (fieldX w))
  | 0xA1#8 => .ok (.sknp (fieldX w))
  | _ => .error (.unrecognised w)

/-- Class F is matched on `NN` (R50, R51). -/
def decodeClassF (w : Word) : Except Reject Instr :=
  match fieldNN w with
  | 0x07#8 => .ok (.ldVxDt (fieldX w))
  | 0x0A#8 => .ok (.ldVxK (fieldX w))
  | 0x15#8 => .ok (.ldDtVx (fieldX w))
  | 0x18#8 => .ok (.ldStVx (fieldX w))
  | 0x1E#8 => .ok (.addI (fieldX w))
  | 0x29#8 => .ok (.ldF (fieldX w))
  | 0x33#8 => .ok (.ldB (fieldX w))
  | 0x55#8 => .ok (.storeRegs (fieldX w))
  | 0x65#8 => .ok (.loadRegs (fieldX w))
  | _ => .error (.unrecognised w)

/-- Dispatch on the class, then on the sub-selector (R50); classes 5 and 9 ask for `N = 0` (spec/90_conflicts.md C7). -/
def decode (w : Word) : Except Reject Instr :=
  match opClass w with
  | 0x0#4 => decodeClass0 w
  | 0x1#4 => .ok (.jp (fieldNNN w))
  | 0x2#4 => .ok (.call (fieldNNN w))
  | 0x3#4 => .ok (.seImm (fieldX w) (fieldNN w))
  | 0x4#4 => .ok (.sneImm (fieldX w) (fieldNN w))
  | 0x5#4 => if fieldN w = 0 then .ok (.seReg (fieldX w) (fieldY w)) else .error (.unrecognised w)
  | 0x6#4 => .ok (.ldImm (fieldX w) (fieldNN w))
  | 0x7#4 => .ok (.addImm (fieldX w) (fieldNN w))
  | 0x8#4 => decodeClass8 w
  | 0x9#4 => if fieldN w = 0 then .ok (.sneReg (fieldX w) (fieldY w)) else .error (.unrecognised w)
  | 0xA#4 => .ok (.ldI (fieldNNN w))
  | 0xB#4 => .ok (.jpV0 (fieldNNN w))
  | 0xC#4 => .ok (.rnd (fieldX w) (fieldNN w))
  | 0xD#4 => .ok (.drw (fieldX w) (fieldY w) (fieldN w))
  | 0xE#4 => decodeClassE w
  | _ => decodeClassF w

/-- The opcode of two bytes: the byte at the lower address is bits 15 to 8 (R39, R57). -/
def wordOfBytes (hi lo : Byte) : Word := hi ++ lo

/-- The byte of an opcode stored at the lower address (R39). -/
def highByte (w : Word) : Byte := w.extractLsb' 8 8
/-- The byte of an opcode stored at the higher address (R39). -/
def lowByte (w : Word) : Byte := w.extractLsb' 0 8

/-- The two bytes of an opcode in memory order (R39, R46). -/
def bytesOfWord (w : Word) : List Byte := [highByte w, lowByte w]

/-- Decode the instruction at the head of a byte stream and answer the rest of it (R46). -/
def decodeBytes : List Byte → Except Reject (Instr × List Byte)
  | hi :: lo :: rest =>
    match decode (wordOfBytes hi lo) with
    | .ok i => .ok (i, rest)
    | .error e => .error e
  | _ => .error .truncated

/-- The word of an instruction (R48, R51). -/
def encode : Instr → Word
  | .cls => 0x00E0#16
  | .ret => 0x00EE#16
  | .jp nnn => 0x1#4 ++ nnn
  | .call nnn => 0x2#4 ++ nnn
  | .seImm x nn => 0x3#4 ++ x ++ nn
  | .sneImm x nn => 0x4#4 ++ x ++ nn
  | .seReg x y => 0x5#4 ++ x ++ y ++ 0x0#4
  | .ldImm x nn => 0x6#4 ++ x ++ nn
  | .addImm x nn => 0x7#4 ++ x ++ nn
  | .ldReg x y => 0x8#4 ++ x ++ y ++ 0x0#4
  | .orReg x y => 0x8#4 ++ x ++ y ++ 0x1#4
  | .andReg x y => 0x8#4 ++ x ++ y ++ 0x2#4
  | .xorReg x y => 0x8#4 ++ x ++ y ++ 0x3#4
  | .addReg x y => 0x8#4 ++ x ++ y ++ 0x4#4
  | .subReg x y => 0x8#4 ++ x ++ y ++ 0x5#4
  | .shr x y => 0x8#4 ++ x ++ y ++ 0x6#4
  | .subnReg x y => 0x8#4 ++ x ++ y ++ 0x7#4
  | .shl x y => 0x8#4 ++ x ++ y ++ 0xE#4
  | .sneReg x y => 0x9#4 ++ x ++ y ++ 0x0#4
  | .ldI nnn => 0xA#4 ++ nnn
  | .jpV0 nnn => 0xB#4 ++ nnn
  | .rnd x nn => 0xC#4 ++ x ++ nn
  | .drw x y n => 0xD#4 ++ x ++ y ++ n
  | .skp x => 0xE#4 ++ x ++ 0x9E#8
  | .sknp x => 0xE#4 ++ x ++ 0xA1#8
  | .ldVxDt x => 0xF#4 ++ x ++ 0x07#8
  | .ldVxK x => 0xF#4 ++ x ++ 0x0A#8
  | .ldDtVx x => 0xF#4 ++ x ++ 0x15#8
  | .ldStVx x => 0xF#4 ++ x ++ 0x18#8
  | .addI x => 0xF#4 ++ x ++ 0x1E#8
  | .ldF x => 0xF#4 ++ x ++ 0x29#8
  | .ldB x => 0xF#4 ++ x ++ 0x33#8
  | .storeRegs x => 0xF#4 ++ x ++ 0x55#8
  | .loadRegs x => 0xF#4 ++ x ++ 0x65#8

/-- The opcode whose bits the opcode table numbers `w`: one word, so the table's numbering is the word's own; bits at or
above `nbits` are 0. -/
def tableWord (nbits w : Nat) : Word := BitVec.ofNat 16 (w % 2 ^ nbits)

/-- What the decoder reads from the bytes of the instruction the opcode table numbers `w`. -/
def decodeTableWord (nbits w : Nat) : Option Instr :=
  match decodeBytes (bytesOfWord (tableWord nbits w)) with
  | .ok (i, _) => some i
  | .error _ => none

end Sys2Proof
end

