-- ==== Sys2Proof/Config.lean ====
section
/-! DEFINITION. What the spec leaves to the implementation, as constants without a body: nothing in Lean can evaluate them or
prove a value of them (spec/00_scope.md R9, spec/40_step_cycle.md R64; notes/assumptions/1.md, 3.md). -/

namespace Sys2Proof

/-- `TICK_DIVIDER` less one. R9 asks only that `TICK_DIVIDER` be an integer of at least 1 and gives no default
(notes/assumptions/1.md, DESIGN CHOICE, safe). -/
opaque Config.tickDividerPred : Nat

/-- `TICK_DIVIDER`, the number of steps per timer tick, at least 1 (R9). -/
def Config.tickDivider : Nat := Config.tickDividerPred + 1

/-- The answers of `RandomSource.nextByte()`, one for each use: a free value (R64, R131; notes/assumptions/3.md,
DESIGN CHOICE, safe). -/
opaque Config.randomByte : Nat → Byte

end Sys2Proof
end

