-- ==== Sys2Proof/Machine/Font.lean ====
section
/-! DEFINITION. The default of the parameter FONT (spec/10_state.md R28). PRESUMED: the source gives the address range only;
the bytes are the spec's default from general knowledge (spec/92_eei_decisions.md D15, notes/assumptions/2.md, unsafe for a
claim that rests on a glyph's bytes). -/

namespace Sys2Proof.Machine

/-- The sixteen glyphs of R28 in address order, five bytes each. -/
def defaultFont : Vector Byte 80 :=
  #v[0xF0, 0x90, 0x90, 0x90, 0xF0,
     0x20, 0x60, 0x20, 0x20, 0x70,
     0xF0, 0x10, 0xF0, 0x80, 0xF0,
     0xF0, 0x10, 0xF0, 0x10, 0xF0,
     0x90, 0x90, 0xF0, 0x10, 0x10,
     0xF0, 0x80, 0xF0, 0x10, 0xF0,
     0xF0, 0x80, 0xF0, 0x90, 0xF0,
     0xF0, 0x10, 0x20, 0x40, 0x40,
     0xF0, 0x90, 0xF0, 0x90, 0xF0,
     0xF0, 0x90, 0xF0, 0x10, 0xF0,
     0xF0, 0x90, 0xF0, 0x90, 0x90,
     0xE0, 0x90, 0xE0, 0x90, 0xE0,
     0xF0, 0x80, 0x80, 0x80, 0xF0,
     0xE0, 0x90, 0x90, 0x90, 0xE0,
     0xF0, 0x80, 0xF0, 0x80, 0xF0,
     0xF0, 0x80, 0xF0, 0x80, 0x80]

end Sys2Proof.Machine
end

