-- ==== Sys2Proof/Machine/State.lean ====
section
/-! DEFINITION. The state of the machine (spec/10_state.md R13 to R31) as plain data, the reasons a step could stop, and the
state after Reset. -/

namespace Sys2Proof.Machine

/-- The framebuffer: 32 rows of 64 one-bit cells, `fb[y][x]` (R26). -/
abbrev Framebuffer := Vector (Vector Bool 64) 32

/-- Main memory: (address, byte) pairs in rising order of address; a byte not listed has its reset content (R27, R32;
notes/assumptions/7.md). -/
abbrev Memory := List Host.Cell

/-- The fatal causes (spec/60_exceptions.md R114). -/
inductive Cause where
  /-- 1: 2NNN with `sp = 16` (R116) -/
  | stackOverflow
  /-- 2: 00EE with `sp = 0` (R117) -/
  | stackUnderflow
  /-- 3: an access above address 4095 (R118) -/
  | memOob
  /-- 4: EX9E or EXA1 with `V[X] > 15` (R119) -/
  | keyOob
  deriving DecidableEq, Repr

/-- What `raise Fatal(cause, info)` records (R24, R114, R120). -/
structure FaultRecord where
  cause : Cause
  info : Word
  deriving DecidableEq, Repr

/-- The events the core emits (spec/00_scope.md R7). -/
inductive Event where
  /-- The whole framebuffer, at the end of a drawing instruction's step (spec/40_step_cycle.md R60). -/
  | render (fb : Framebuffer)
  /-- The sound timer ticked from 1 to 0 (R125). -/
  | beep
  /-- An unrecognised word and the address it was fetched from (R115). -/
  | decodeFault (word addr : Word)
  /-- A fatal condition (R120). -/
  | fatal (f : FaultRecord)
  deriving DecidableEq, Repr

/-- The parameters of the machine (spec/00_scope.md R9). No operation changes them. -/
structure Params where
  /-- `TICK_DIVIDER`, at least 1 -/
  tickDivider : Nat
  /-- `FONT`, the 80 bytes memory holds at 0x000 after Reset -/
  font : Vector Byte 80
  deriving DecidableEq, Repr

/-- The state of the machine (R17, R31). -/
structure State where
  /-- `V0` to `VF` (R13) -/
  v : Vector Byte 16
  /-- the program counter (R16) -/
  pc : Word
  /-- the index register (R18) -/
  I : Word
  /-- the number of live entries of the call stack, 0 to 16 (R19) -/
  sp : Fin 17
  /-- the call stack (R19) -/
  stack : Vector Word 16
  /-- the delay timer (R20) -/
  dt : Byte
  /-- the sound timer (R20) -/
  st : Byte
  /-- the timer divider (R21) -/
  div : Nat
  /-- the key flags: bit `k` is `key[k]` (R22) -/
  key : BitVec 16
  /-- `wait.active` (R23) -/
  waitActive : Bool
  /-- `wait.reg` (R23) -/
  waitReg : Nibble
  /-- the fault latch (R24) -/
  fault : Option FaultRecord
  /-- the draw flag, as the last step left it (R25; notes/assumptions/6.md) -/
  draw : Bool
  /-- the framebuffer (R26) -/
  fb : Framebuffer
  /-- main memory (R27) -/
  mem : Memory
  /-- the parameters (R9, R30) -/
  params : Params
  /-- the model's own: the random input of R7 and R64, a free value (notes/assumptions/3.md) -/
  rnd : Byte
  /-- the model's own: how many random bytes have been used (notes/assumptions/3.md) -/
  draws : Nat
  /-- the model's own: the events emitted since the last Reset, oldest first (R7; notes/assumptions/4.md) -/
  events : List Event
  deriving DecidableEq, Repr

/-- The reasons a step could stop with a fault: none. The spec describes what every abnormal event does (R113, R115, R120),
so each is a next state (notes/assumptions/5.md). Nothing raises a value of this type. -/
inductive Fault where
  deriving DecidableEq, Repr

/-- The reasons a step could be refused. -/
inductive Refusal where
  /-- Raised by an arm of `exec` for an instruction without a meaning (safe). Every instruction has its meaning, so nothing
  raises it. -/
  | notModelled (mnemonic : String)
  deriving DecidableEq, Repr

/-- The state after Reset of a machine with the given parameters (R31, spec/70_reset_and_hazards.md R135). -/
def State.resetWith (p : Params) : State where
  v := Vector.replicate 16 0
  pc := 0x200
  I := 0
  sp := 0
  stack := Vector.replicate 16 0
  dt := 0
  st := 0
  div := p.tickDivider
  key := 0
  waitActive := false
  waitReg := 0
  fault := none
  draw := false
  fb := Vector.replicate 32 (Vector.replicate 64 false)
  mem := []
  params := p
  rnd := Config.randomByte 0
  draws := 0
  events := []

/-- The machine right after Reset, with `TICK_DIVIDER` left open and the default `FONT` (R9, R31). -/
def State.reset : State := State.resetWith ⟨Config.tickDivider, defaultFont⟩

end Sys2Proof.Machine
end

