-- ==== Sys2Proof/Machine/Flags.lean ====
section
/-! DEFINITION. The values the flag-writing instructions of class 8 give VF (spec/10_state.md R14, spec/44_alu.md R86). -/

namespace Sys2Proof.Machine

/-- Carry of an addition: the true sum exceeds 255 (R86, R94). -/
def carryOut (a b : Byte) : Bool := decide (255 < a.toNat + b.toNat)

/-- The inverse of borrow of `a - b` (R86, R95, R97). -/
def noBorrow (a b : Byte) : Bool := decide (b.toNat ≤ a.toNat)

/-- The bit a right shift evicts (R96). -/
def evictedRight (a : Byte) : Bool := a.getLsbD 0

/-- The bit a left shift evicts (R98). -/
def evictedLeft (a : Byte) : Bool := a.getLsbD 7

/-- A flag as the byte VF receives: 0 or 1 (R14). -/
def flagByte (f : Bool) : Byte := if f then 1 else 0

end Sys2Proof.Machine
end

