-- ==== Sys2Proof/Machine/Operands.lean ====
section
/-! DEFINITION. How operands become values: immediates, decimal digits, glyph addresses, sprite bits and pixel coordinates. -/

namespace Sys2Proof.Machine

/-- `NNN` as a 16-bit address: zero-extended, not scaled (spec/30_encoding.md R49). -/
def immAddr (nnn : Imm12) : Word := nnn.zeroExtend 16

/-- A byte as a 16-bit number (spec/00_scope.md R10 `zext_16`). -/
def zext16 (b : Byte) : Word := b.zeroExtend 16

/-- The address of the glyph numbered `b`: `b * 5` of the whole byte (spec/45_index_memory.md R103). -/
def glyphAddr (b : Byte) : Word := zext16 b * 5

/-- The decimal digits of a byte: hundreds, tens, ones (R104). -/
def decimalDigits (b : Byte) : List Byte :=
  [BitVec.ofNat 8 (b.toNat / 100), BitVec.ofNat 8 (b.toNat / 10 % 10), BitVec.ofNat 8 (b.toNat % 10)]

/-- How many registers FX55 and FX65 move: `X + 1` (R49, R105, R106). -/
def regCount (x : Nibble) : Nat := x.toNat + 1

/-- The bit of a sprite byte at a column offset: bit 7 is the leftmost pixel (spec/41_display.md R69). -/
def spriteBit (b : Byte) (col : Nat) : Bool := b.getLsbD (7 - col)

/-- Columns wrap modulo 64 (R68). -/
def wrapX (x : Nat) : Fin 64 := ⟨x % 64, Nat.mod_lt _ (by decide)⟩

/-- Rows wrap modulo 32 (R68). -/
def wrapY (y : Nat) : Fin 32 := ⟨y % 32, Nat.mod_lt _ (by decide)⟩

end Sys2Proof.Machine
end

