-- ==== Sys2Proof/Machine/Ops.lean ====
section
/-! DEFINITION. The named operations over memory, registers, call stack, framebuffer and events, and the one way a fatal
condition is taken. -/

namespace Sys2Proof.Machine

/-! ## Memory (spec/20_memory.md) -/

/-- `MEM_SIZE` (spec/00_scope.md R8): addresses 0 to 4095 exist. -/
def memSize : Nat := 4096

/-- What a byte that nothing has written reads as: its content after Reset (spec/10_state.md R27, R31). -/
def Memory.initial (font : Vector Byte 80) (a : Nat) : Byte := if h : a < 80 then font[a] else 0

/-- The listed byte at an address. -/
def Memory.lookup (m : Memory) (a : Nat) : Option Byte := (m.find? fun c => c.1 == a).map (·.2)

/-- The byte at an address (R35). -/
def Memory.read (font : Vector Byte 80) (m : Memory) (a : Nat) : Byte := (Memory.lookup m a).getD (Memory.initial font a)

/-- Put a cell before the first cell of a higher address. -/
def Memory.insert (c : Host.Cell) : Memory → Memory
  | [] => [c]
  | d :: m => if c.1 < d.1 then c :: d :: m else d :: Memory.insert c m

/-- Take an address out of the list. -/
def Memory.erase (m : Memory) (a : Nat) : Memory := m.filter fun c => c.1 != a

/-- Store one byte (R36), keeping the canonical form. -/
def Memory.write (font : Vector Byte 80) (m : Memory) (a : Nat) (b : Byte) : Memory :=
  if b = Memory.initial font a then Memory.erase m a else Memory.insert (a, b) (Memory.erase m a)

/-- Store bytes at consecutive addresses, lowest first (R41). -/
def Memory.writeBytes (font : Vector Byte 80) : Memory → Nat → List Byte → Memory
  | m, _, [] => m
  | m, a, b :: bs => Memory.writeBytes font (Memory.write font m a b) (a + 1) bs

/-- The canonical form: addresses strictly rising and below 4096, no entry equal to what an unlisted address reads as. -/
def Memory.wf (font : Vector Byte 80) (m : Memory) : Bool :=
  decide (m.Pairwise fun c d => c.1 < d.1) && m.all fun c => decide (c.1 < memSize) && c.2 != Memory.initial font c.1

/-- The byte the state's memory holds at an address. -/
def State.readByte (s : State) (a : Nat) : Byte := Memory.read s.params.font s.mem a

/-- The lowest address above 4095 among the `n` addresses from `a` on, if there is one (R34, R37, R38). -/
def outOfRange (a n : Nat) : Option Nat :=
  if n = 0 then none else if a + n - 1 < memSize then none else some (max a memSize)

/-- Read `n` bytes from `a` on, or answer the lowest offending address (R35, R38). -/
def State.loadBytes (s : State) (a n : Nat) : Except Nat (List Byte) :=
  match outOfRange a n with
  | some bad => .error bad
  | none => .ok ((List.range n).map fun k => s.readByte (a + k))

/-- Store bytes from `a` on, all of them or none: the addresses are checked first (R36, R38). -/
def State.storeBytes (s : State) (a : Nat) (bs : List Byte) : Except Nat State :=
  match outOfRange a bs.length with
  | some bad => .error bad
  | none => .ok { s with mem := Memory.writeBytes s.params.font s.mem a bs }

/-! ## Events and fatal conditions (spec/00_scope.md R7, spec/60_exceptions.md R120) -/

/-- `emit`: the event joins the record of what the core has sent out (R7). -/
def State.emit (s : State) (e : Event) : State := { s with events := s.events ++ [e] }

/-- `raise Fatal(cause, info)`: nothing changes but the latch, and the event is emitted once (R24, R63, R120). There is no
return from it: only Reset clears the latch (R122; `hostReset`). -/
def State.raiseFatal (s : State) (cause : Cause) (info : Word) : State :=
  { s.emit (.fatal ⟨cause, info⟩) with fault := some ⟨cause, info⟩ }

/-- `raise Fatal(MEM_OOB, bad)` (R114, R118). -/
def State.raiseMemOob (s : State) (bad : Nat) : State := s.raiseFatal .memOob (BitVec.ofNat 16 bad)

/-- The cause's code (R114). -/
def causeCode : Cause → Nat
  | .stackOverflow => 1
  | .stackUnderflow => 2
  | .memOob => 3
  | .keyOob => 4

/-- The code of the one event that is reported and survived, `DECODE_FAULT` (R114). -/
def decodeFaultCode : Nat := 0

/-! ## Registers and the program counter (spec/10_state.md R13 to R16) -/

/-- `V[x]` (spec/00_scope.md R11). -/
def State.reg (s : State) (x : Nibble) : Byte := s.v[x.toNat]

/-- `V[x] <- b` (R11). -/
def State.setReg (s : State) (x : Nibble) (b : Byte) : State := { s with v := s.v.set x.toNat b }

/-- `V[0xF] <- f`, the flag's value 0 or 1 (R14). -/
def State.setFlag (s : State) (f : Bool) : State := s.setReg 0xF (flagByte f)

/-- `V[x] <- result; V[0xF] <- flag`, in this order, so that with `X = F` the flag is what stays (R15,
spec/44_alu.md R87). -/
def State.setResultAndFlag (s : State) (x : Nibble) (result : Byte) (flag : Bool) : State :=
  (s.setReg x result).setFlag flag

/-- `V0..VX` in order (spec/45_index_memory.md R105). -/
def State.firstRegs (s : State) (n : Nat) : List Byte := s.v.toList.take n

/-- `V[k] <- b` for successive registers, from register `k` on (R106). -/
def writeRegs (v : Vector Byte 16) (k : Nat) : List Byte → Vector Byte 16
  | [] => v
  | b :: bs => writeRegs (v.setIfInBounds k b) (k + 1) bs

/-- `pc <- target`, a jump (spec/40_step_cycle.md R59). -/
def State.jump (s : State) (target : Word) : State := { s with pc := target }

/-- `pc <- pc + 2`, the default (R59). -/
def State.advance (s : State) : State := s.jump (s.pc + 2)

/-- `pc + 4` when a skip's condition holds, else `pc + 2` (R59, spec/43_skip.md R77). -/
def State.skipIf (s : State) (c : Bool) : State := s.jump (if c then s.pc + 4 else s.pc + 2)

/-! ## The call stack (spec/10_state.md R19) -/

/-- Push an address, unless all 16 entries are in use (spec/42_control_flow.md R74). -/
def State.push (s : State) (a : Word) : Option State :=
  if h : s.sp.val < 16 then
    some { s with stack := s.stack.set s.sp.val a, sp := ⟨s.sp.val + 1, by omega⟩ }
  else none

/-- Pop the top address, unless the stack is empty; the entry keeps its value (R19, R72). -/
def State.pop (s : State) : Option (Word × State) :=
  if h : 0 < s.sp.val then
    some (s.stack[s.sp.val - 1]'(by omega), { s with sp := ⟨s.sp.val - 1, by omega⟩ })
  else none

/-! ## The framebuffer (spec/10_state.md R26, spec/41_display.md) -/

/-- The cell `fb[y][x]`. -/
def Framebuffer.cell (fb : Framebuffer) (x : Fin 64) (y : Fin 32) : Bool := (fb[y.val])[x.val]

/-- `fb[y][x] <- fb[y][x] XOR 1`. -/
def Framebuffer.flip (fb : Framebuffer) (x : Fin 64) (y : Fin 32) : Framebuffer :=
  fb.set y.val ((fb[y.val]).set x.val (!(Framebuffer.cell fb x y)))

/-- The clear framebuffer (R67). -/
def Framebuffer.clear : Framebuffer := Vector.replicate 32 (Vector.replicate 64 false)

/-- The 2048 cells of a `Render` payload, the cell `fb[y][x]` at index `y * 64 + x` (R26). -/
def Framebuffer.payload (fb : Framebuffer) : List Bool := (fb.toList.map (·.toList)).flatten

/-- The framebuffer and the collision found so far, while a sprite is drawn (R68). -/
abbrev Canvas := Framebuffer × Bool

/-- Draw one set sprite bit at a pixel: note a collision if the cell is 1, then flip it (R68). -/
def plotPixel (c : Canvas) (x : Fin 64) (y : Fin 32) : Canvas :=
  (Framebuffer.flip c.1 x y, c.2 || Framebuffer.cell c.1 x y)

/-- Draw one sprite row: the loop over `col` of R68. -/
def plotRow (b : Byte) (x0 y : Nat) (c : Canvas) : Canvas :=
  (List.range 8).foldl (fun c col => if spriteBit b col then plotPixel c (wrapX (x0 + col)) (wrapY y) else c) c

/-- Draw the sprite's rows from row `y` on: the loop over `row` of R68. -/
def plotSprite : List Byte → Nat → Nat → Canvas → Canvas
  | [], _, _, c => c
  | b :: bs, x0, y, c => plotSprite bs x0 (y + 1) (plotRow b x0 y c)

/-! ## Keys (spec/10_state.md R22, spec/60_exceptions.md R128) -/

/-- The lowest key of a mask that is pressed (R128). -/
def lowestKey (mask : BitVec 16) : Option Nat := (List.range 16).find? fun k => mask.getLsbD k

end Sys2Proof.Machine
end

