-- ==== Sys2Proof/Machine/Cycle.lean ====
section
/-! DEFINITION. What a step does around the execute part (spec/40_step_cycle.md): the controlling state, fetch, the decode
fault, render and the timer tick. -/

namespace Sys2Proof.Machine

/-- The three controlling states (R55). -/
inductive Control where
  | faulted
  | awaitingKey
  | running
  deriving DecidableEq, Repr

/-- The controlling state as a function of the state elements (R55). -/
def State.control (s : State) : Control :=
  if s.fault.isSome then .faulted else if s.waitActive then .awaitingKey else .running

/-- `draw <- 0`, at the start of a step (R56). -/
def State.beginStep (s : State) : State := { s with draw := false }

/-- Fetch: two bytes at `pc`, big-endian, both bounds-checked (R57; spec/20_memory.md R37, R39). -/
def State.fetch (s : State) : Except Nat Word :=
  match outOfRange s.pc.toNat 2 with
  | some bad => .error bad
  | none => .ok (wordOfBytes (s.readByte s.pc.toNat) (s.readByte (s.pc.toNat + 1)))

/-- The decode fault: report the word and its address, `pc + 2`, nothing else (R58, spec/60_exceptions.md R115). -/
def State.decodeFault (s : State) (w : Word) : State := (s.emit (.decodeFault w s.pc)).advance

/-- `if draw = 1: emit Render(fb)` (R60). -/
def State.render (s : State) : State := if s.draw then s.emit (.render s.fb) else s

/-- This step's `Tick()` brings the divider to 0, so it is a timer tick (R125). -/
def State.tickDue (s : State) : Bool := s.div - 1 == 0

/-- `Tick()`: count the divider down; on 0 reload it and take both timers down by one, floor 0, with a beep when the sound
timer goes from 1 to 0 (R125). Each timer's own value is looked at first, so that a timer at rest is seen to stay so whatever
`TICK_DIVIDER` is. -/
def State.tick (s : State) : State :=
  { s with
    div := if s.tickDue then s.params.tickDivider else s.div - 1
    dt := if s.dt = 0 then 0 else if s.tickDue then s.dt - 1 else s.dt
    st := if s.st = 0 then 0 else if s.tickDue then s.st - 1 else s.st
    events := s.events ++ if s.st = 1 ∧ s.tickDue then [.beep] else [] }

/-- The end of a Running step that began in `before` and whose execute part left `after`: render, then tick. If the execute
part raised a fatal condition the step ends there, and the draw flag too is as before the step (R56, R63). -/
def State.endStep (before after : State) : State :=
  if after.fault.isSome then { after with draw := before.draw } else after.render.tick

/-- Apply the end of a step to the outcome of an execute part. -/
def onNext (f : State → State) : Host.Outcome State Fault Refusal → Host.Outcome State Fault Refusal
  | .next s => .next (f s)
  | .fault r => .fault r
  | .refused r => .refused r

/-- The state with an opcode stored where the next step fetches (R39, R57), and in the controlling state Running, which the
fetch needs (R55). A `pc` above 4094 has no place for an opcode: then nothing is stored. -/
def State.placeWord (s : State) (w : Word) : State :=
  match { s with fault := none, waitActive := false }.storeBytes s.pc.toNat (bytesOfWord w) with
  | .ok t => t
  | .error _ => s

end Sys2Proof.Machine
end

