-- ==== Sys2Proof/Machine/Alu.lean ====
section
/-! DEFINITION. Register load, arithmetic, logic, shift and random (spec/44_alu.md). Operands are read from the state before
the instruction, so a source that is also the destination, or VF, is the old value (R87). -/

namespace Sys2Proof.Machine

/-- 6XNN (R88). -/
def execLdImm (x : Nibble) (nn : Byte) (s : State) : Host.Outcome State Fault Refusal :=
  .next (s.setReg x nn).advance

/-- 7XNN, VF untouched (R89). -/
def execAddImm (x : Nibble) (nn : Byte) (s : State) : Host.Outcome State Fault Refusal :=
  .next (s.setReg x (s.reg x + nn)).advance

/-- 8XY0 (R90). -/
def execLdReg (x y : Nibble) (s : State) : Host.Outcome State Fault Refusal :=
  .next (s.setReg x (s.reg y)).advance

/-- 8XY1, VF untouched (R91). -/
def execOrReg (x y : Nibble) (s : State) : Host.Outcome State Fault Refusal :=
  .next (s.setReg x (s.reg x ||| s.reg y)).advance

/-- 8XY2, VF untouched (R92). -/
def execAndReg (x y : Nibble) (s : State) : Host.Outcome State Fault Refusal :=
  .next (s.setReg x (s.reg x &&& s.reg y)).advance

/-- 8XY3, VF untouched (R93). -/
def execXorReg (x y : Nibble) (s : State) : Host.Outcome State Fault Refusal :=
  .next (s.setReg x (s.reg x ^^^ s.reg y)).advance

/-- 8XY4, VF is the carry (R94). -/
def execAddReg (x y : Nibble) (s : State) : Host.Outcome State Fault Refusal :=
  .next (s.setResultAndFlag x (s.reg x + s.reg y) (carryOut (s.reg x) (s.reg y))).advance

/-- 8XY5, VF is the inverse of borrow (R95). -/
def execSubReg (x y : Nibble) (s : State) : Host.Outcome State Fault Refusal :=
  .next (s.setResultAndFlag x (s.reg x - s.reg y) (noBorrow (s.reg x) (s.reg y))).advance

/-- 8XY6, shift `V[x]` right; `y` is ignored (R96). -/
def execShr (x _y : Nibble) (s : State) : Host.Outcome State Fault Refusal :=
  .next (s.setResultAndFlag x (s.reg x >>> 1) (evictedRight (s.reg x))).advance

/-- 8XY7, reverse subtract (R97). -/
def execSubnReg (x y : Nibble) (s : State) : Host.Outcome State Fault Refusal :=
  .next (s.setResultAndFlag x (s.reg y - s.reg x) (noBorrow (s.reg y) (s.reg x))).advance

/-- 8XYE, shift `V[x]` left; `y` is ignored (R98). -/
def execShl (x _y : Nibble) (s : State) : Host.Outcome State Fault Refusal :=
  .next (s.setResultAndFlag x (s.reg x <<< 1) (evictedLeft (s.reg x))).advance

/-- The random byte is used up and the next one is a fresh free value (spec/40_step_cycle.md R64, notes/assumptions/3.md). -/
def State.nextRandom (s : State) : State :=
  { s with rnd := Config.randomByte (s.draws + 1), draws := s.draws + 1 }

/-- CXNN, masked random byte (R99). -/
def execRnd (x : Nibble) (nn : Byte) (s : State) : Host.Outcome State Fault Refusal :=
  .next (s.setReg x (s.rnd &&& nn)).nextRandom.advance

end Sys2Proof.Machine
end

