-- ==== Sys2Proof/Machine/ControlFlow.lean ====
section
/-! DEFINITION. Control transfer: 00EE, 1NNN, 2NNN, BNNN (spec/42_control_flow.md). -/

namespace Sys2Proof.Machine

/-- 00EE, return: the popped value is the new pc, nothing added (R72). -/
def execRet (s : State) : Host.Outcome State Fault Refusal :=
  match s.pop with
  | none => .next (s.raiseFatal .stackUnderflow s.pc)
  | some (target, t) => .next (t.jump target)

/-- 1NNN, jump (R73). -/
def execJp (nnn : Imm12) (s : State) : Host.Outcome State Fault Refusal :=
  .next (s.jump (immAddr nnn))

/-- 2NNN, call: push the address of the next instruction (R74). -/
def execCall (nnn : Imm12) (s : State) : Host.Outcome State Fault Refusal :=
  match s.push (s.pc + 2) with
  | none => .next (s.raiseFatal .stackOverflow s.pc)
  | some t => .next (t.jump (immAddr nnn))

/-- BNNN, jump to `V0 + NNN`; the register is V0 whatever the second nibble (R75). -/
def execJpV0 (nnn : Imm12) (s : State) : Host.Outcome State Fault Refusal :=
  .next (s.jump (zext16 (s.reg 0) + immAddr nnn))

end Sys2Proof.Machine
end

