-- ==== Sys2Proof/Machine/Display.lean ====
section
/-! DEFINITION. The display instructions 00E0 and DXYN (spec/41_display.md). -/

namespace Sys2Proof.Machine

/-- 00E0, clear the framebuffer (R67). -/
def execCls (s : State) : Host.Outcome State Fault Refusal :=
  .next { s with fb := Framebuffer.clear, draw := true }.advance

/-- DXYN, draw a sprite by XOR and report collision (R68). The coordinates are read before VF is written (R15). -/
def execDrw (x y n : Nibble) (s : State) : Host.Outcome State Fault Refusal :=
  match s.loadBytes s.I.toNat n.toNat with
  | .error bad => .next (s.raiseMemOob bad)
  | .ok rows =>
    let c := plotSprite rows (s.reg x).toNat (s.reg y).toNat (s.fb, false)
    .next ({ s with fb := c.1, draw := true }.setFlag c.2).advance

end Sys2Proof.Machine
end

