-- ==== Sys2Proof/Machine/IndexMemory.lean ====
section
/-! DEFINITION. Index register and memory instructions (spec/45_index_memory.md). `I` is a base and stays as it is except in
ANNN, FX1E and FX29 (R100). -/

namespace Sys2Proof.Machine

/-- ANNN (R101). -/
def execLdI (nnn : Imm12) (s : State) : Host.Outcome State Fault Refusal :=
  .next { s with I := immAddr nnn }.advance

/-- FX1E, VF untouched (R102). -/
def execAddI (x : Nibble) (s : State) : Host.Outcome State Fault Refusal :=
  .next { s with I := s.I + zext16 (s.reg x) }.advance

/-- FX29, the address of a glyph (R103). -/
def execLdF (x : Nibble) (s : State) : Host.Outcome State Fault Refusal :=
  .next { s with I := glyphAddr (s.reg x) }.advance

/-- FX33, store the three decimal digits (R104). -/
def execLdB (x : Nibble) (s : State) : Host.Outcome State Fault Refusal :=
  match s.storeBytes s.I.toNat (decimalDigits (s.reg x)) with
  | .error bad => .next (s.raiseMemOob bad)
  | .ok t => .next t.advance

/-- FX55, store `V0..VX` (R105). -/
def execStoreRegs (x : Nibble) (s : State) : Host.Outcome State Fault Refusal :=
  match s.storeBytes s.I.toNat (s.firstRegs (regCount x)) with
  | .error bad => .next (s.raiseMemOob bad)
  | .ok t => .next t.advance

/-- FX65, load `V0..VX` (R106). -/
def execLoadRegs (x : Nibble) (s : State) : Host.Outcome State Fault Refusal :=
  match s.loadBytes s.I.toNat (regCount x) with
  | .error bad => .next (s.raiseMemOob bad)
  | .ok bs => .next { s with v := writeRegs s.v 0 bs }.advance

end Sys2Proof.Machine
end

