-- ==== Sys2Proof/Machine/Skip.lean ====
section
/-! DEFINITION. The conditional skips (spec/43_skip.md R77 to R85). -/

namespace Sys2Proof.Machine

/-- 3XNN, skip if equal to the immediate (R79). -/
def execSeImm (x : Nibble) (nn : Byte) (s : State) : Host.Outcome State Fault Refusal :=
  .next (s.skipIf (s.reg x == nn))

/-- 4XNN, skip if different from the immediate (R80). -/
def execSneImm (x : Nibble) (nn : Byte) (s : State) : Host.Outcome State Fault Refusal :=
  .next (s.skipIf (s.reg x != nn))

/-- 5XY0, skip if two registers are equal (R81). -/
def execSeReg (x y : Nibble) (s : State) : Host.Outcome State Fault Refusal :=
  .next (s.skipIf (s.reg x == s.reg y))

/-- 9XY0, skip if two registers differ (R82). -/
def execSneReg (x y : Nibble) (s : State) : Host.Outcome State Fault Refusal :=
  .next (s.skipIf (s.reg x != s.reg y))

/-- A skip on the key numbered `V[x]`: fatal when there is no such key, else by whether it is `wanted` (R83, R84, R85). -/
def skipOnKey (x : Nibble) (wanted : Bool) (s : State) : State :=
  if 15 < (s.reg x).toNat then s.raiseFatal .keyOob (zext16 (s.reg x))
  else s.skipIf (s.key.getLsbD (s.reg x).toNat == wanted)

/-- EX9E, skip if the key is pressed (R83). -/
def execSkp (x : Nibble) (s : State) : Host.Outcome State Fault Refusal :=
  .next (skipOnKey x true s)

/-- EXA1, skip if the key is not pressed (R84). -/
def execSknp (x : Nibble) (s : State) : Host.Outcome State Fault Refusal :=
  .next (skipOnKey x false s)

end Sys2Proof.Machine
end

