-- ==== Sys2Proof/Machine/TimerKey.lean ====
section
/-! DEFINITION. Timer access and the key wait (spec/46_timer_key.md). -/

namespace Sys2Proof.Machine

/-- FX07, read the delay timer, before this step's tick (R109). -/
def execLdVxDt (x : Nibble) (s : State) : Host.Outcome State Fault Refusal :=
  .next (s.setReg x s.dt).advance

/-- FX15, write the delay timer (R110). -/
def execLdDtVx (x : Nibble) (s : State) : Host.Outcome State Fault Refusal :=
  .next { s with dt := s.reg x }.advance

/-- FX18, write the sound timer (R111). -/
def execLdStVx (x : Nibble) (s : State) : Host.Outcome State Fault Refusal :=
  .next { s with st := s.reg x }.advance

/-- FX0A, enter AwaitingKey with target `V[x]`; the key flags are not looked at (R112). -/
def execLdVxK (x : Nibble) (s : State) : Host.Outcome State Fault Refusal :=
  .next { s with waitActive := true, waitReg := x }.advance

end Sys2Proof.Machine
end

