-- ==== Sys2Proof/Machine/Step.lean ====
section
/-! DEFINITION. `Step`, the one operation of the core (spec/40_step_cycle.md R56). -/

namespace Sys2Proof.Machine

/-- One step (R56). Faulted: nothing (R62). AwaitingKey: the tick only (R61). Running: fetch, decode, execute, render, tick;
a fatal condition in the fetch or the execute part ends the step (R63). -/
def step (s : State) : Host.Outcome State Fault Refusal :=
  match s.control with
  | .faulted => .next s
  | .awaitingKey => .next s.beginStep.tick
  | .running =>
    match s.fetch with
    | .error bad => .next (s.raiseMemOob bad)
    | .ok w =>
      match decode w with
      | .error _ => .next (s.endStep (s.beginStep.decodeFault w))
      | .ok i => onNext s.endStep (exec i s.beginStep)

/-- The state with the instruction the opcode table numbers `w` stored at `pc`, where the next step fetches it. -/
def State.withFetchWord (s : State) (nbits w : Nat) : State := s.placeWord (tableWord nbits w)

end Sys2Proof.Machine
end

