-- ==== Sys2Proof/Machine/HostOps.lean ====
section
/-! DEFINITION. The host's operations between steps (spec/70_reset_and_hazards.md R135, R136, R138, spec/60_exceptions.md
R128), and one operation of either agent on a state (spec/00_scope.md R6). -/

namespace Sys2Proof.Machine

/-- `Reset`, in any state (R135): every state element of the spec to its reset value, no event. The parameters stay, and so
does the random source, which is outside the core (R131; notes/assumptions/9.md). -/
def hostReset (s : State) : State := { State.resetWith s.params with rnd := s.rnd, draws := s.draws }

/-- The sentinel the loader appends: an unrecognised word, high byte first (R136). -/
def sentinel : Word := 0x0EFD

/-- `LoadProgram(bytes)`: the image at 0x200 and the sentinel after it, or `Fatal(MEM_OOB, 4096)` with nothing written when
it does not fit; nothing in state Faulted (R136, spec/10_state.md R24). -/
def loadProgram (bytes : List Byte) (s : State) : State :=
  if s.fault.isSome then s
  else
    match s.storeBytes 0x200 (bytes ++ bytesOfWord sentinel) with
    | .ok t => t
    | .error bad => s.raiseMemOob bad

/-- `ApplyInput(mask)`: the key flags become the mask; a waiting FX0A gets the lowest pressed key and the wait ends; nothing
in state Faulted (R128). -/
def applyInput (mask : BitVec 16) (s : State) : State :=
  if s.fault.isSome then s
  else
    let t := { s with key := mask }
    match s.waitActive, lowestKey mask with
    | true, some k => { t.setReg s.waitReg (BitVec.ofNat 8 k) with waitActive := false }
    | _, _ => t

/-- `Step(rnd)`: a step that is given the random byte `r` (spec/00_scope.md R7, spec/40_step_cycle.md R64). -/
def stepWith (r : Byte) (s : State) : Host.Outcome State Fault Refusal := step { s with rnd := r }

/-- The operations on the machine state (spec/00_scope.md R6). -/
inductive Operation where
  | reset
  | loadProgram (bytes : List Byte)
  | applyInput (mask : BitVec 16)
  /-- `Step(rnd)` -/
  | step (rnd : Byte)
  deriving DecidableEq, Repr

/-- One operation, atomic with respect to the others (R6). -/
def perform : Operation → State → Host.Outcome State Fault Refusal
  | .reset, s => .next (hostReset s)
  | .loadProgram bytes, s => .next (Sys2Proof.Machine.loadProgram bytes s)
  | .applyInput mask, s => .next (Sys2Proof.Machine.applyInput mask s)
  | .step r, s => stepWith r s

/-- A run: the host's operations and the core's steps in an order the host chooses (R6, spec/20_memory.md R42). -/
def performAll : List Operation → State → Host.Outcome State Fault Refusal
  | [], s => .next s
  | o :: os, s =>
    match perform o s with
    | .next t => performAll os t
    | .fault r => .fault r
    | .refused r => .refused r

end Sys2Proof.Machine
end

