-- ==== Sys2Proof/Safety.lean ====
section
/-! DEFINITION. The terms claims are stated in: the invariant of the machine, what marks a run as gone wrong, what an
instruction leaves unchanged, and which pixels a sprite touches. -/

namespace Sys2Proof.Machine

/-! ## The invariant -/

/-- What a recorded fatal condition says about the state it froze (spec/60_exceptions.md R114, R116 to R119). -/
def FaultRecord.Explains (f : FaultRecord) (s : State) : Prop :=
  match f.cause with
  | .stackOverflow => s.sp.val = 16 ∧ f.info = s.pc
  | .stackUnderflow => s.sp.val = 0 ∧ f.info = s.pc
  | .memOob => 4095 < f.info.toNat
  | .keyOob => 15 < f.info.toNat ∧ f.info.toNat < 256

/-- What holds of the machine between operations. -/
structure State.Inv (s : State) : Prop where
  /-- memory is in canonical form and within the 4096 addresses that exist (spec/20_memory.md R32) -/
  memory : Memory.wf s.params.font s.mem = true
  /-- the divider is at least 1 (spec/10_state.md R21) -/
  dividerPos : 1 ≤ s.div
  /-- and at most `TICK_DIVIDER` (R21) -/
  dividerLe : s.div ≤ s.params.tickDivider
  /-- the latch holds exactly the fatal conditions reported since Reset, so at most one (R24, R120) -/
  reported : ∀ f, Event.fatal f ∈ s.events ↔ s.fault = some f
  /-- and the frozen state shows its cause (R63, R114) -/
  explained : ∀ f, s.fault = some f → f.Explains s

/-! ## Runs gone wrong (spec/40_step_cycle.md R66) -/

/-- "Any other `DecodeFault` event, and any `Fatal` event, marks a run as gone wrong" (R66). -/
def Event.goneWrong : Event → Bool
  | .decodeFault w _ => w != sentinel
  | .fatal _ => true
  | .render _ => false
  | .beep => false

/-- A state whose run has not gone wrong since Reset. -/
def State.Safe (s : State) : Prop := ∀ e ∈ s.events, e.goneWrong = false

/-- The run since the last Reset has reached its end: the sentinel has been reported, from some address (R66; the record of
events begins at Reset, notes/assumptions/4.md, 22.md). -/
def State.RunEnded (s : State) : Prop := ∃ a, Event.decodeFault sentinel a ∈ s.events

/-- The step from `s` to `t` is the end of the run: the FIRST step since Reset that emits `DecodeFault(0x0EFD, a)`, with `t`
the run's final state (R66). The core does not stop there. -/
def EndOfRun (s t : State) (a : Word) : Prop :=
  ¬ s.RunEnded ∧ step s = .next t ∧ s.events ++ [.decodeFault sentinel a] <+: t.events

/-! ## Frames -/

/-- Every byte of memory reads as before. -/
def SameBytes (s t : State) : Prop := ∀ a, t.readByte a = s.readByte a

/-- Nothing but `pc` changes. -/
def OnlyPcChanges (s t : State) : Prop := t = { s with pc := t.pc } ∧ SameBytes s t

/-- Nothing but general registers and `pc` changes. -/
def OnlyRegsChange (s t : State) : Prop := t = { s with v := t.v, pc := t.pc } ∧ SameBytes s t

/-- Nothing but the register `x` and `pc` changes. -/
def OnlyRegChanges (s t : State) (x : Nibble) : Prop := OnlyRegsChange s t ∧ ∀ r, r ≠ x → t.reg r = s.reg r

/-- Nothing but the register `x`, VF and `pc` changes. -/
def OnlyResultAndFlagChange (s t : State) (x : Nibble) : Prop :=
  OnlyRegsChange s t ∧ ∀ r, r ≠ x → r ≠ 0xF → t.reg r = s.reg r

/-- Nothing but `I` and `pc` changes. -/
def OnlyIndexChanges (s t : State) : Prop := t = { s with I := t.I, pc := t.pc } ∧ SameBytes s t

/-- Nothing but memory and `pc` changes, and of memory only the `n` bytes from `a` on. -/
def OnlyBytesChange (s t : State) (a n : Nat) : Prop :=
  t = { s with mem := t.mem, pc := t.pc } ∧ ∀ b, b < a ∨ a + n ≤ b → t.readByte b = s.readByte b

/-- `t` is `s` after `raise Fatal(cause, info)`: only the latch and the record of events differ (R120). -/
def IsFatal (s t : State) (cause : Cause) (info : Word) : Prop :=
  t = { s with fault := some ⟨cause, info⟩, events := s.events ++ [.fatal ⟨cause, info⟩] }

/-! ## Sprites (spec/41_display.md R68, R69) -/

/-- A set bit of the sprite of `n` rows at `I`, drawn at `(x0, y0)`, falls on the pixel `(px, py)`. -/
def SpriteHits (s : State) (x0 y0 : Byte) (n : Nat) (px : Fin 64) (py : Fin 32) : Prop :=
  ∃ row, row < n ∧ ∃ col, col < 8 ∧ (s.readByte (s.I.toNat + row)).getLsbD (7 - col) = true ∧
    (x0.toNat + col) % 64 = px.val ∧ (y0.toNat + row) % 32 = py.val

/-- `VF` after the draw: some sprite bit fell on a pixel that was set (R68). -/
def SpriteCollides (s : State) (x0 y0 : Byte) (n : Nat) : Prop :=
  ∃ px py, SpriteHits s x0 y0 n px py ∧ s.fb.cell px py = true

/-! ## Balanced calls (spec/42_control_flow.md R76) -/

/-- An instruction that is neither a call nor a return. -/
def isPlainInstr : Instr → Bool
  | .call _ => false
  | .ret => false
  | _ => true

/-- `t` is reached from `s` by instructions in which every 2NNN is matched by a later 00EE, with no fatal condition (R76). -/
inductive BalancedRun : State → State → Prop where
  | done (s : State) : BalancedRun s s
  | plain (i : Instr) (s t u : State) : isPlainInstr i = true → exec i s = .next t → t.fault = none → BalancedRun t u →
      BalancedRun s u
  | nested (nnn : Imm12) (s t u w z : State) : exec (.call nnn) s = .next t → t.fault = none → BalancedRun t u →
      exec .ret u = .next w → w.fault = none → BalancedRun w z → BalancedRun s z

end Sys2Proof.Machine
end

