-- ==== Sys2Proof/Certificates/Slice0/Obligations.lean ====
section
/-! DEFINITION. The statements for the provers, drawn from the numbered rules of spec/. Where a statement rests on a decision
the spec marks as its own, or on a choice of the model, its docstring names the decision or the log entry. -/

open Sys2Proof Sys2Proof.Machine

/-! ## Encoding (spec/30_encoding.md) -/

/-- Decoding an encoded instruction gives it back, for every instruction and every operand (R47, R49, R51). -/
def Obligations.DecodeUndoesEncode : Prop := ∀ i : Instr, decode (encode i) = .ok i

/-- Encoding a decoded word gives it back: no bit of a recognised word is dropped, the ignored `Y` of 8XY6 and 8XYE
included (R47, R51). -/
def Obligations.EncodeUndoesDecode : Prop := ∀ (w : Word) (i : Instr), decode w = .ok i → encode i = w

/-- The decoder follows the opcode map: a decoded word is selected by its instruction's row, and a word decodes exactly when
some row selects it (R51; the reading of the fixed digits is spec/90_conflicts.md C7). -/
def Obligations.DecodeFollowsOpcodeMap : Prop :=
  (∀ (w : Word) (i : Instr), decode w = .ok i → i.row ∈ opcodeMap ∧ i.row.selects w = true) ∧
  (∀ w : Word, wellFormedWord w = true ↔ ∃ i, decode w = .ok i)

/-- "No two rows overlap" (R51). -/
def Obligations.OpcodeRowsAreDisjoint : Prop :=
  ∀ (w : Word) (r r' : OpcodeRow), r ∈ opcodeMap → r' ∈ opcodeMap → r.selects w = true → r'.selects w = true → r = r'

/-- The unrecognised words, class by class (R52; spec/92_eei_decisions.md D16). -/
def Obligations.UnrecognisedWordsByClass : Prop :=
  ∀ w : Word, decode w = .error (.unrecognised w) ↔
    (w.toNat / 4096 = 0x0 ∧ w.toNat % 4096 ≠ 0x0E0 ∧ w.toNat % 4096 ≠ 0x0EE) ∨
    (w.toNat / 4096 = 0x5 ∧ w.toNat % 16 ≠ 0) ∨
    (w.toNat / 4096 = 0x8 ∧ w.toNat % 16 ∈ [0x8, 0x9, 0xA, 0xB, 0xC, 0xD, 0xF]) ∨
    (w.toNat / 4096 = 0x9 ∧ w.toNat % 16 ≠ 0) ∨
    (w.toNat / 4096 = 0xE ∧ w.toNat % 256 ∉ [0x9E, 0xA1]) ∨
    (w.toNat / 4096 = 0xF ∧ w.toNat % 256 ∉ [0x07, 0x0A, 0x15, 0x18, 0x1E, 0x29, 0x33, 0x55, 0x65])

/-- Words written out from the spec's encodings, one of each family, decode to the instructions they stand for
(spec/95_test_vectors.md section 2). -/
def Obligations.SpecWordsDecode : Prop :=
  decode 0x00E0 = .ok .cls ∧ decode 0xD015 = .ok (.drw 0 1 5) ∧ decode 0x2ABC = .ok (.call 0xABC) ∧
  decode 0x3B7F = .ok (.seImm 0xB 0x7F) ∧ decode 0x9230 = .ok (.sneReg 2 3) ∧ decode 0xE1A1 = .ok (.sknp 1) ∧
  decode 0x6FAB = .ok (.ldImm 0xF 0xAB) ∧ decode 0x8016 = .ok (.shr 0 1) ∧ decode 0xC30F = .ok (.rnd 3 0x0F) ∧
  decode 0xA22A = .ok (.ldI 0x22A) ∧ decode 0xF155 = .ok (.storeRegs 1) ∧ decode 0xF207 = .ok (.ldVxDt 2) ∧
  decode 0x0EFD = .error (.unrecognised 0x0EFD)

/-! ## The step (spec/40_step_cycle.md) -/

/-- Fetch is two bounds-checked byte reads, the byte at `pc` in bits 15 to 8 (R57, spec/20_memory.md R37), from any address,
odd ones too (spec/20_memory.md R40; spec/92_eei_decisions.md D18, notes/assumptions/26.md). -/
def Obligations.FetchIsBigEndian : Prop :=
  ∀ s : State,
    (s.pc.toNat ≤ 4094 → ∃ w : Word, s.fetch = .ok w ∧
      w.toNat = 256 * (s.readByte s.pc.toNat).toNat + (s.readByte (s.pc.toNat + 1)).toNat) ∧
    (4094 < s.pc.toNat → ∃ bad, s.fetch = .error bad)

/-- In state Running, when the two bytes at `pc` decode to an instruction, the step is that instruction's execute part run
with the draw flag clear, then the step's end: render and tick if no fatal condition was raised, and otherwise nothing more,
with the draw flag as it was (R56, R58, R63; the draw flag after a fatal condition is notes/assumptions/6.md). -/
def Obligations.StepRunsDecodedInstruction : Prop :=
  ∀ (s : State) (i : Instr), s.fault = none → s.waitActive = false → s.pc.toNat ≤ 4094 →
    decode (wordOfBytes (s.readByte s.pc.toNat) (s.readByte (s.pc.toNat + 1))) = .ok i →
    (∀ t, exec i { s with draw := false } = .next t → t.fault = none → step s = .next t.render.tick) ∧
    (∀ t f, exec i { s with draw := false } = .next t → t.fault = some f → step s = .next { t with draw := s.draw })

/-- An unrecognised word is reported with its address and is otherwise a no-operation with `pc + 2`; the step goes on to its
tick and the machine stays in state Running (R115). -/
def Obligations.DecodeFaultIsReportedAndSurvived : Prop :=
  ∀ (s : State) (w : Word) (e : Reject), s.fault = none → s.waitActive = false → s.fetch = .ok w → decode w = .error e →
    ∃ t, step s = .next t ∧
      t = State.tick { s with draw := false, pc := s.pc + 2, events := s.events ++ [.decodeFault w s.pc] } ∧
      t.pc = s.pc + 2 ∧ t.fault = none ∧ t.waitActive = false ∧ .decodeFault w s.pc ∈ t.events ∧ SameBytes s t

/-- A fetch above address 4094 is `Fatal(MEM_OOB, ·)` with the lowest offending address: `pc` itself above 4095, and 4096 for
`pc = 4095`; nothing else differs after the step, the draw flag included (spec/20_memory.md R37, spec/40_step_cycle.md
R63; spec/92_eei_decisions.md D3, D4, and notes/assumptions/6.md for the draw flag, which R56 clears before the fetch). -/
def Obligations.FetchOutOfRangeIsFatal : Prop :=
  ∀ s : State, s.fault = none → s.waitActive = false → 4094 < s.pc.toNat →
    ∃ t, step s = .next t ∧ IsFatal s t .memOob (if s.pc.toNat = 4095 then 4096 else s.pc)

/-- In state Faulted a step, `ApplyInput` and `LoadProgram` change nothing and emit nothing (R62, spec/10_state.md R24;
spec/92_eei_decisions.md D3, D21). -/
def Obligations.FaultedMachineIsFrozen : Prop :=
  ∀ s : State, s.fault ≠ none →
    step s = .next s ∧ (∀ mask, applyInput mask s = s) ∧ ∀ bytes, loadProgram bytes s = s

/-- A step in state AwaitingKey changes the timers, the divider, the (cleared) draw flag and nothing else; it emits no
`Render` and goes on waiting (R61). -/
def Obligations.AwaitingKeyStepOnlyTicks : Prop :=
  ∀ s : State, s.fault = none → s.waitActive = true →
    ∃ t, step s = .next t ∧ t = State.tick { s with draw := false } ∧
      t = { s with draw := false, div := t.div, dt := t.dt, st := t.st, events := t.events } ∧
      (t.events = s.events ∨ t.events = s.events ++ [.beep]) ∧ SameBytes s t

/-- However many steps are taken and whatever random bytes they are given, a key wait goes on: `pc`, all registers, memory,
the stack and the latch stay as they are, and every event added is a `Beep`, so none is a `Render` (R61). The vector S8 of
spec/95_test_vectors.md says this of steps with no pressed key; that it holds with keys down too, since only `ApplyInput`
ends a wait, is spec/92_eei_decisions.md D7 (notes/assumptions/12.md). -/
def Obligations.KeyWaitOutlastsAnySteps : Prop :=
  ∀ (rs : List Byte) (s : State), s.fault = none → s.waitActive = true →
    ∃ t, performAll (rs.map Operation.step) s = .next t ∧
      t = { s with draw := t.draw, div := t.div, dt := t.dt, st := t.st, events := t.events, rnd := t.rnd } ∧
      ∃ beeps, t.events = s.events ++ beeps ∧ ∀ e ∈ beeps, e = Event.beep

/-- Every step answers a next state, and so do the host's operations: the core has no halt instruction, never stops by itself
and goes on after a decode fault (R66). That a fatal condition, which ends execution (spec/60_exceptions.md R113), is a next
state with the latch set, and that a step in state Faulted answers the same state, is the model's reading
(notes/assumptions/5.md, DEDUCED; spec/92_eei_decisions.md D3). -/
def Obligations.EveryOperationAnswersNext : Prop :=
  (∀ s : State, ∃ t, step s = .next t) ∧ ∀ (o : Operation) (s : State), ∃ t, perform o s = .next t

/-- The events of a step that raised no fatal condition: after what the execute part emitted, one `Render` of the framebuffer
as the instruction left it exactly when the instruction is 00E0 or DXYN, then the tick's `Beep` if there is one
(R60; spec/90_conflicts.md C6). -/
def Obligations.RenderFollowsDrawing : Prop :=
  ∀ (s t : State) (w : Word) (i : Instr), s.fault = none → s.waitActive = false → s.fetch = .ok w → decode w = .ok i →
    step s = .next t → t.fault = none →
    ∃ u renders beeps, exec i { s with draw := false } = .next u ∧ t.events = s.events ++ renders ++ beeps ∧
      ((i = .cls ∨ ∃ x y n, i = .drw x y n) → renders = [.render u.fb]) ∧
      (i ≠ .cls → (∀ x y n, i ≠ .drw x y n) → renders = []) ∧
      beeps = if s.div ≤ 1 ∧ u.st = 1 then [.beep] else []

/-! ## Timers (spec/60_exceptions.md R125, R126) -/

/-- `Tick()`: the divider counts down; on reaching 0 it is reloaded and both timers go down by one, floor 0, with a `Beep`
exactly when the sound timer goes from 1 to 0 (R125; spec/92_eei_decisions.md D2). -/
def Obligations.TickCountsDown : Prop :=
  ∀ s : State,
    (2 ≤ s.div → s.tick = { s with div := s.div - 1 }) ∧
    (s.div = 1 → s.tick =
      { s with
        div := s.params.tickDivider
        dt := BitVec.ofNat 8 (s.dt.toNat - 1)
        st := BitVec.ofNat 8 (s.st.toNat - 1)
        events := s.events ++ if s.st.toNat = 1 then [.beep] else [] })

/-- Over `k` full periods of the divider both timers lose `k` and stop at 0, and exactly one `Beep` is emitted if the sound
timer was running and has run out, none otherwise (R126; the phase of the ticks is spec/92_eei_decisions.md D2). -/
def Obligations.TimersDecayToZero : Prop :=
  ∀ (k : Nat) (s : State), 1 ≤ s.params.tickDivider → s.div = s.params.tickDivider →
    let t := State.tick^[k * s.params.tickDivider] s
    t.dt.toNat = s.dt.toNat - k ∧ t.st.toNat = s.st.toNat - k ∧ t.div = s.params.tickDivider ∧
      t.events = s.events ++ if 1 ≤ s.st.toNat ∧ s.st.toNat ≤ k then [.beep] else []

/-! ## Fatal conditions (spec/60_exceptions.md R113 to R122) -/

/-- Faults are precise: a step that ends in state Faulted has changed the latch and emitted the one event `Fatal`, and every
other part of the state, memory and `pc` included, is as before the step (R63, R120; spec/92_eei_decisions.md D3, and
notes/assumptions/6.md for the draw flag). -/
def Obligations.FatalStepIsPrecise : Prop :=
  ∀ (s t : State) (f : FaultRecord), s.fault = none → step s = .next t → t.fault = some f → IsFatal s t f.cause f.info

/-- What can raise what: the four causes come only from the instructions the table of R114 gives them, with the datum it
gives (R114; spec/92_eei_decisions.md D4). -/
def Obligations.FatalCausesAreTheTables : Prop :=
  ∀ (s t : State) (i : Instr) (f : FaultRecord), s.fault = none → exec i s = .next t → t.fault = some f →
    match f.cause with
    | .stackOverflow => (∃ nnn, i = .call nnn) ∧ s.sp.val = 16 ∧ f.info = s.pc
    | .stackUnderflow => i = .ret ∧ s.sp.val = 0 ∧ f.info = s.pc
    | .memOob => ((∃ x y n, i = .drw x y n) ∨ ∃ x, i = .ldB x ∨ i = .storeRegs x ∨ i = .loadRegs x) ∧
        f.info.toNat = max s.I.toNat 4096
    | .keyOob => ∃ x, (i = .skp x ∨ i = .sknp x) ∧ 15 < (s.reg x).toNat ∧ f.info.toNat = (s.reg x).toNat

/-! ## The invariant -/

/-- Every step keeps the invariant: memory in canonical form, the divider between 1 and `TICK_DIVIDER`, the latch in
agreement with the reported fatal conditions and with the frozen state. -/
def Obligations.StepKeepsInvariant : Prop := ∀ s t : State, s.Inv → step s = .next t → t.Inv

/-- `Reset`, `LoadProgram` and `ApplyInput` keep it too. -/
def Obligations.HostOperationsKeepInvariant : Prop :=
  ∀ s : State, s.Inv → (hostReset s).Inv ∧ (∀ bytes, (loadProgram bytes s).Inv) ∧ ∀ mask, (applyInput mask s).Inv

/-- The state after Reset has the invariant, whatever `TICK_DIVIDER` of at least 1 and whatever `FONT`. -/
def Obligations.ResetHasInvariant : Prop :=
  State.reset.Inv ∧ ∀ p : Params, 1 ≤ p.tickDivider → (State.resetWith p).Inv

/-! ## Who writes what (spec/10_state.md R14, R17, R22) -/

/-- Each special register is written only by the instructions the table of R17 names, the framebuffer and the draw flag only
by 00E0 and DXYN (R17, spec/40_step_cycle.md R60), memory only by FX33 and FX55 (spec/20_memory.md R41), and no instruction
writes the key flags or the divider (R17). The random input and its counter change only in CXNN (spec/40_step_cycle.md R64;
both fields are the model's own, notes/assumptions/3.md, DESIGN CHOICE), and no instruction changes the parameters (that they
stand in the state is notes/assumptions/1.md and 2.md). -/
def Obligations.SpecialRegistersHaveTheirOwnWriters : Prop :=
  ∀ (i : Instr) (s t : State), exec i s = .next t →
    (t.I ≠ s.I → (∃ nnn, i = .ldI nnn) ∨ ∃ x, i = .addI x ∨ i = .ldF x) ∧
    (t.sp ≠ s.sp ∨ t.stack ≠ s.stack → i = .ret ∨ ∃ nnn, i = .call nnn) ∧
    (t.stack ≠ s.stack → ∃ nnn, i = .call nnn) ∧
    (t.dt ≠ s.dt → ∃ x, i = .ldDtVx x) ∧
    (t.st ≠ s.st → ∃ x, i = .ldStVx x) ∧
    (t.waitActive ≠ s.waitActive ∨ t.waitReg ≠ s.waitReg → ∃ x, i = .ldVxK x) ∧
    (t.fb ≠ s.fb ∨ t.draw ≠ s.draw → i = .cls ∨ ∃ x y n, i = .drw x y n) ∧
    (t.mem ≠ s.mem → ∃ x, i = .ldB x ∨ i = .storeRegs x) ∧
    (t.rnd ≠ s.rnd ∨ t.draws ≠ s.draws → ∃ x nn, i = .rnd x nn) ∧
    t.key = s.key ∧ t.div = s.div ∧ t.params = s.params

/-- VF changes only in the six flag-writing instructions, which leave 0 or 1 in it unless they end in a fatal condition, and
in an instruction that names VF as its destination (R14; spec/92_eei_decisions.md D10, D11). -/
def Obligations.FlagRegisterHasSixWriters : Prop :=
  ∀ (i : Instr) (s t : State), exec i s = .next t →
    let flagWriter := (∃ x y, i = .addReg x y ∨ i = .subReg x y ∨ i = .shr x y ∨ i = .subnReg x y ∨ i = .shl x y) ∨
      ∃ x y n, i = .drw x y n
    let namesVF := (∃ nn, i = .ldImm 0xF nn ∨ i = .addImm 0xF nn ∨ i = .rnd 0xF nn) ∨
      (∃ y, i = .ldReg 0xF y ∨ i = .orReg 0xF y ∨ i = .andReg 0xF y ∨ i = .xorReg 0xF y) ∨
      i = .ldVxDt 0xF ∨ i = .loadRegs 0xF
    (flagWriter → s.fault = none → t.fault = none → t.reg 0xF = 0 ∨ t.reg 0xF = 1) ∧
    (¬ flagWriter → ¬ namesVF → t.reg 0xF = s.reg 0xF)

/-- A step does not change the key flags (R22) and does not end a key wait (R61). It keeps the parameters, which are the
model's fields of State (notes/assumptions/1.md, 2.md), and only adds to the record of events, which is the model's own
(notes/assumptions/4.md). -/
def Obligations.StepLeavesHostSideAlone : Prop :=
  ∀ s t : State, step s = .next t →
    t.key = s.key ∧ t.params = s.params ∧ (s.waitActive = true → t.waitActive = true) ∧ s.events <+: t.events

/-! ## Display (spec/41_display.md) -/

/-- 00E0 clears every cell, sets the draw flag even on a clear screen, so that a `Render` with an all-zero grid follows, and
changes nothing else but `pc` (R67, R60). -/
def Obligations.ClsClearsScreen : Prop :=
  ∀ s : State, ∃ t, exec .cls s = .next t ∧ (∀ x y, t.fb.cell x y = false) ∧ t.draw = true ∧ t.pc = s.pc + 2 ∧
    t = { s with fb := t.fb, draw := t.draw, pc := t.pc } ∧ SameBytes s t ∧
    t.render = { t with events := s.events ++ [.render t.fb] }

/-- DXYN, when every sprite byte is in memory (always for `N = 0`): a cell flips exactly when a set bit of the sprite falls on
it, with wrap on both axes and the coordinates read before VF is written; VF is 1 exactly when some set cell was hit; the draw
flag is set; nothing else changes (R68, R69; spec/92_eei_decisions.md D10, D14, D25). -/
def Obligations.DrwDrawsSprite : Prop :=
  ∀ (s : State) (x y n : Nibble), n = 0 ∨ s.I.toNat + n.toNat ≤ 4096 →
    ∃ t, exec (.drw x y n) s = .next t ∧
      (∀ px py, (SpriteHits s (s.reg x) (s.reg y) n.toNat px py → t.fb.cell px py = !s.fb.cell px py) ∧
        (¬ SpriteHits s (s.reg x) (s.reg y) n.toNat px py → t.fb.cell px py = s.fb.cell px py)) ∧
      (SpriteCollides s (s.reg x) (s.reg y) n.toNat → t.reg 0xF = 1) ∧
      (¬ SpriteCollides s (s.reg x) (s.reg y) n.toNat → t.reg 0xF = 0) ∧
      t.draw = true ∧ t.pc = s.pc + 2 ∧ (∀ r, r ≠ 0xF → t.reg r = s.reg r) ∧
      t = { s with v := t.v, fb := t.fb, draw := t.draw, pc := t.pc } ∧ SameBytes s t

/-- DXYN with a sprite byte above address 4095 raises `Fatal(MEM_OOB, max(I, 4096))` and draws nothing (R68,
spec/20_memory.md R38; spec/92_eei_decisions.md D3, D4). -/
def Obligations.DrwOutOfRangeIsFatal : Prop :=
  ∀ (s : State) (x y n : Nibble), n ≠ 0 → 4096 < s.I.toNat + n.toNat →
    ∃ t, exec (.drw x y n) s = .next t ∧ IsFatal s t .memOob (if s.I.toNat < 4096 then 4096 else s.I)

/-- Drawing is its own inverse: the same DXYN twice, with neither coordinate register VF, restores every cell; VF is then 1
exactly when some set bit of the sprite fell on a cell that was 0 before the first draw (R70). -/
def Obligations.DrwTwiceRestoresScreen : Prop :=
  ∀ (s t u : State) (x y n : Nibble), x ≠ 0xF → y ≠ 0xF → (n = 0 ∨ s.I.toNat + n.toNat ≤ 4096) →
    exec (.drw x y n) s = .next t → exec (.drw x y n) t = .next u →
    (∀ px py, u.fb.cell px py = s.fb.cell px py) ∧
    (u.reg 0xF = 1 ↔ ∃ px py, SpriteHits s (s.reg x) (s.reg y) n.toNat px py ∧ s.fb.cell px py = false)

/-! ## Control transfer (spec/42_control_flow.md) -/

/-- 1NNN: `pc` becomes `NNN`, zero-extended, and nothing else changes; after a jump to 4095 it is the next fetch that faults,
not the jump (R73; spec/92_eei_decisions.md D27, notes/assumptions/26.md). -/
def Obligations.JumpSetsPc : Prop :=
  ∀ (s : State) (nnn : Imm12), ∃ t, exec (.jp nnn) s = .next t ∧ t.pc.toNat = nnn.toNat ∧ OnlyPcChanges s t ∧
    (nnn.toNat = 4095 → ∃ bad, t.fetch = .error bad)

/-- BNNN: `pc` becomes `V0 + NNN`, not reduced, and nothing else changes; a target above 4094 is no fault here
(R75; spec/92_eei_decisions.md D27). -/
def Obligations.JumpWithOffsetAddsV0 : Prop :=
  ∀ (s : State) (nnn : Imm12), ∃ t, exec (.jpV0 nnn) s = .next t ∧ t.pc.toNat = (s.reg 0).toNat + nnn.toNat ∧
    OnlyPcChanges s t

/-- 2NNN with a stack that is not full: the entry `stack[sp]` becomes `pc + 2`, `sp` goes up by one, `pc` becomes `NNN`, and
nothing else changes (R74; spec/92_eei_decisions.md D5). -/
def Obligations.CallPushesReturnAddress : Prop :=
  ∀ (s : State) (nnn : Imm12) (h : s.sp.val < 16), ∃ t, exec (.call nnn) s = .next t ∧
    t.stack[s.sp.val] = s.pc + 2 ∧ (∀ j (hj : j < 16), j ≠ s.sp.val → t.stack[j] = s.stack[j]) ∧
    t.sp.val = s.sp.val + 1 ∧ t.pc.toNat = nnn.toNat ∧
    t = { s with stack := t.stack, sp := t.sp, pc := t.pc } ∧ SameBytes s t

/-- 00EE with a stack that is not empty: `pc` becomes the top entry with nothing added, `sp` goes down by one, the entry keeps
its value, and nothing else changes (R72, spec/10_state.md R19; spec/92_eei_decisions.md D6). -/
def Obligations.ReturnPopsIntoPc : Prop :=
  ∀ (s : State) (h : 0 < s.sp.val), ∃ t, exec .ret s = .next t ∧
    t.pc = s.stack[s.sp.val - 1]'(by omega) ∧ t.sp.val = s.sp.val - 1 ∧
    t = { s with sp := t.sp, pc := t.pc } ∧ SameBytes s t

/-- The 17th nested call and a return with an empty stack are fatal, with the `pc` of the instruction, and change nothing
else (R116, R117; spec/92_eei_decisions.md D3, D4). -/
def Obligations.StackLimitsAreFatal : Prop :=
  (∀ (s : State) (nnn : Imm12), s.sp.val = 16 → ∃ t, exec (.call nnn) s = .next t ∧ IsFatal s t .stackOverflow s.pc) ∧
  (∀ s : State, s.sp.val = 0 → ∃ t, exec .ret s = .next t ∧ IsFatal s t .stackUnderflow s.pc)

/-- Over instructions in which every call is matched by a later return, and with no fatal condition, `sp` and the live stack
entries come back, and the return of a call goes to the call's address plus 2 (R76; spec/92_eei_decisions.md D5). -/
def Obligations.BalancedCallsRestoreStack : Prop :=
  (∀ s t : State, BalancedRun s t →
    t.sp = s.sp ∧ ∀ j (hj : j < 16), j < s.sp.val → t.stack[j] = s.stack[j]) ∧
  (∀ (s t u w : State) (nnn : Imm12), exec (.call nnn) s = .next t → t.fault = none → BalancedRun t u →
    exec .ret u = .next w → w.fault = none → w.sp = s.sp ∧ w.pc = s.pc + 2)

/-! ## Skips (spec/43_skip.md) -/

/-- 3XNN and 4XNN: `pc + 4` when the register equals (differs from) the immediate, else `pc + 2`; nothing else changes
(R79, R80; which of the two tests equality is spec/93_implementation_defined.md K4). -/
def Obligations.SkipsOnImmediate : Prop :=
  ∀ (s : State) (x : Nibble) (nn : Byte),
    (∃ t, exec (.seImm x nn) s = .next t ∧ OnlyPcChanges s t ∧
      (s.reg x = nn → t.pc = s.pc + 4) ∧ (s.reg x ≠ nn → t.pc = s.pc + 2)) ∧
    (∃ t, exec (.sneImm x nn) s = .next t ∧ OnlyPcChanges s t ∧
      (s.reg x ≠ nn → t.pc = s.pc + 4) ∧ (s.reg x = nn → t.pc = s.pc + 2))

/-- 5XY0 and 9XY0: `pc + 4` when the registers are equal (differ), else `pc + 2`; nothing else changes
(R81, R82; spec/93_implementation_defined.md K4). -/
def Obligations.SkipsOnRegisters : Prop :=
  ∀ (s : State) (x y : Nibble),
    (∃ t, exec (.seReg x y) s = .next t ∧ OnlyPcChanges s t ∧
      (s.reg x = s.reg y → t.pc = s.pc + 4) ∧ (s.reg x ≠ s.reg y → t.pc = s.pc + 2)) ∧
    (∃ t, exec (.sneReg x y) s = .next t ∧ OnlyPcChanges s t ∧
      (s.reg x ≠ s.reg y → t.pc = s.pc + 4) ∧ (s.reg x = s.reg y → t.pc = s.pc + 2))

/-- EX9E and EXA1 with a key number up to 15: `pc + 4` when that key's flag is 1 (is 0), else `pc + 2`; nothing else changes,
the flag included (R83, R84; which skips on a pressed key is the order of the source's wording, R78). -/
def Obligations.SkipsOnKey : Prop :=
  ∀ (s : State) (x : Nibble), (s.reg x).toNat ≤ 15 →
    (∃ t, exec (.skp x) s = .next t ∧ OnlyPcChanges s t ∧
      (s.key.getLsbD (s.reg x).toNat = true → t.pc = s.pc + 4) ∧
      (s.key.getLsbD (s.reg x).toNat = false → t.pc = s.pc + 2)) ∧
    (∃ t, exec (.sknp x) s = .next t ∧ OnlyPcChanges s t ∧
      (s.key.getLsbD (s.reg x).toNat = false → t.pc = s.pc + 4) ∧
      (s.key.getLsbD (s.reg x).toNat = true → t.pc = s.pc + 2))

/-- EX9E and EXA1 with a key number above 15 raise `Fatal(KEY_OOB, V[X])` and change nothing else
(R85, spec/60_exceptions.md R119; spec/92_eei_decisions.md D9). -/
def Obligations.KeyNumberOutOfRangeIsFatal : Prop :=
  ∀ (s : State) (x : Nibble), 15 < (s.reg x).toNat → ∃ info : Word, info.toNat = (s.reg x).toNat ∧
    (∃ t, exec (.skp x) s = .next t ∧ IsFatal s t .keyOob info) ∧
    (∃ t, exec (.sknp x) s = .next t ∧ IsFatal s t .keyOob info)

/-! ## Arithmetic and logic (spec/44_alu.md) -/

/-- 6XNN: afterwards `V[X]` reads exactly `NN`; no other register changes, so VF only when `X = F` (R88). -/
def Obligations.LoadImmediate : Prop :=
  ∀ (s : State) (x : Nibble) (nn : Byte), ∃ t, exec (.ldImm x nn) s = .next t ∧ t.reg x = nn ∧ t.pc = s.pc + 2 ∧
    OnlyRegChanges s t x

/-- 7XNN: `V[X]` becomes the sum modulo 256; no other register changes, so no carry reaches VF (R89). -/
def Obligations.AddImmediateWithoutCarry : Prop :=
  ∀ (s : State) (x : Nibble) (nn : Byte), ∃ t, exec (.addImm x nn) s = .next t ∧
    (t.reg x).toNat = ((s.reg x).toNat + nn.toNat) % 256 ∧ t.pc = s.pc + 2 ∧ OnlyRegChanges s t x

/-- 8XY0: `V[X]` becomes `V[Y]`; no other register changes (R90). -/
def Obligations.AssignRegister : Prop :=
  ∀ (s : State) (x y : Nibble), ∃ t, exec (.ldReg x y) s = .next t ∧ t.reg x = s.reg y ∧ t.pc = s.pc + 2 ∧
    OnlyRegChanges s t x

/-- 8XY1, 8XY2, 8XY3: `V[X]` becomes the bitwise OR, AND, exclusive OR of the old operands; no other register changes, so VF
only when `X = F` (R91, R92, R93; spec/92_eei_decisions.md D11). -/
def Obligations.LogicLeavesFlagAlone : Prop :=
  ∀ (s : State) (x y : Nibble),
    (∃ t, exec (.orReg x y) s = .next t ∧ t.pc = s.pc + 2 ∧ OnlyRegChanges s t x ∧
      ∀ k, k < 8 → (t.reg x).getLsbD k = ((s.reg x).getLsbD k || (s.reg y).getLsbD k)) ∧
    (∃ t, exec (.andReg x y) s = .next t ∧ t.pc = s.pc + 2 ∧ OnlyRegChanges s t x ∧
      ∀ k, k < 8 → (t.reg x).getLsbD k = ((s.reg x).getLsbD k && (s.reg y).getLsbD k)) ∧
    (∃ t, exec (.xorReg x y) s = .next t ∧ t.pc = s.pc + 2 ∧ OnlyRegChanges s t x ∧
      ∀ k, k < 8 → (t.reg x).getLsbD k = Bool.xor ((s.reg x).getLsbD k) ((s.reg y).getLsbD k))

/-- 8XY4: VF is 1 exactly when the true sum exceeds 255, whatever `X` and `Y`; for `X` not F, `V[X]` is the sum modulo 256;
no register but `V[X]` and VF changes (R94; with `X = F` the flag stays, spec/92_eei_decisions.md D10). -/
def Obligations.AddSetsCarry : Prop :=
  ∀ (s : State) (x y : Nibble), ∃ t, exec (.addReg x y) s = .next t ∧
    (t.reg 0xF).toNat = (if 255 < (s.reg x).toNat + (s.reg y).toNat then 1 else 0) ∧
    (x ≠ 0xF → (t.reg x).toNat = ((s.reg x).toNat + (s.reg y).toNat) % 256) ∧
    t.pc = s.pc + 2 ∧ OnlyResultAndFlagChange s t x

/-- 8XY5 and 8XY7: VF is 1 exactly when there is no borrow, and for `X` not F, `V[X]` is the difference modulo 256; no
register but `V[X]` and VF changes (R95, R97; spec/92_eei_decisions.md D10). -/
def Obligations.SubtractSetsNoBorrow : Prop :=
  ∀ (s : State) (x y : Nibble),
    (∃ t, exec (.subReg x y) s = .next t ∧
      (t.reg 0xF).toNat = (if (s.reg y).toNat ≤ (s.reg x).toNat then 1 else 0) ∧
      (x ≠ 0xF → ((t.reg x).toNat : Int) = ((s.reg x).toNat - (s.reg y).toNat : Int) % 256) ∧
      t.pc = s.pc + 2 ∧ OnlyResultAndFlagChange s t x) ∧
    (∃ t, exec (.subnReg x y) s = .next t ∧
      (t.reg 0xF).toNat = (if (s.reg x).toNat ≤ (s.reg y).toNat then 1 else 0) ∧
      (x ≠ 0xF → ((t.reg x).toNat : Int) = ((s.reg y).toNat - (s.reg x).toNat : Int) % 256) ∧
      t.pc = s.pc + 2 ∧ OnlyResultAndFlagChange s t x)

/-- 8XY6 and 8XYE shift `V[X]` itself by one place, whatever `Y`; VF is the evicted bit; no register but `V[X]` and VF changes
(R96, R98; spec/92_eei_decisions.md D10, D12). -/
def Obligations.ShiftsEvictIntoFlag : Prop :=
  ∀ (s : State) (x y : Nibble),
    (∃ t, exec (.shr x y) s = .next t ∧ (t.reg 0xF).toNat = (s.reg x).toNat % 2 ∧
      (x ≠ 0xF → (t.reg x).toNat = (s.reg x).toNat / 2) ∧ t.pc = s.pc + 2 ∧ OnlyResultAndFlagChange s t x) ∧
    (∃ t, exec (.shl x y) s = .next t ∧ (t.reg 0xF).toNat = (s.reg x).toNat / 128 ∧
      (x ≠ 0xF → (t.reg x).toNat = (s.reg x).toNat * 2 % 256) ∧ t.pc = s.pc + 2 ∧ OnlyResultAndFlagChange s t x)

/-- CXNN: `V[X]` becomes the random input of the step AND `NN`, for every value of that input; no other register changes, and
the input is used up (R99; the free value is notes/assumptions/3.md). -/
def Obligations.RandomByteIsMasked : Prop :=
  ∀ (s : State) (x : Nibble) (nn : Byte), ∃ t, exec (.rnd x nn) s = .next t ∧ t.reg x = s.rnd &&& nn ∧ t.pc = s.pc + 2 ∧
    (∀ r, r ≠ x → t.reg r = s.reg r) ∧ t.draws = s.draws + 1 ∧
    t = { s with v := t.v, pc := t.pc, rnd := t.rnd, draws := t.draws } ∧ SameBytes s t

/-! ## Index register and memory (spec/45_index_memory.md, spec/20_memory.md) -/

/-- ANNN, FX1E, FX29: `I` becomes `NNN`, `I + V[X]` modulo 65536, `V[X] * 5` of the whole byte; nothing else changes but `pc`,
VF included (R101, R102, R103). -/
def Obligations.IndexRegisterIsComputed : Prop :=
  ∀ (s : State) (x : Nibble) (nnn : Imm12),
    (∃ t, exec (.ldI nnn) s = .next t ∧ t.I.toNat = nnn.toNat ∧ t.pc = s.pc + 2 ∧ OnlyIndexChanges s t) ∧
    (∃ t, exec (.addI x) s = .next t ∧ t.I.toNat = (s.I.toNat + (s.reg x).toNat) % 65536 ∧ t.pc = s.pc + 2 ∧
      OnlyIndexChanges s t) ∧
    (∃ t, exec (.ldF x) s = .next t ∧ t.I.toNat = (s.reg x).toNat * 5 ∧ t.pc = s.pc + 2 ∧ OnlyIndexChanges s t)

/-- One byte stored at an address up to 4095 reads back, and every other byte is as before; above 4095 nothing is stored and
the address is reported (spec/20_memory.md R36). -/
def Obligations.StoredByteReadsBack : Prop :=
  ∀ (s : State) (a : Nat) (b : Byte),
    (a ≤ 4095 → ∃ t, s.storeBytes a [b] = .ok t ∧ t.readByte a = b ∧ (∀ c, c ≠ a → t.readByte c = s.readByte c) ∧
      t = { s with mem := t.mem }) ∧
    (4095 < a → s.storeBytes a [b] = .error a)

/-- FX33, when its three addresses are in memory: hundreds, tens and ones of `V[X]` at `I`, `I + 1`, `I + 2`; no other byte
and nothing else but `pc` changes (R104). -/
def Obligations.DecimalDigitsAreStored : Prop :=
  ∀ (s : State) (x : Nibble), s.I.toNat + 2 ≤ 4095 → ∃ t, exec (.ldB x) s = .next t ∧
    (t.readByte s.I.toNat).toNat = (s.reg x).toNat / 100 ∧
    (t.readByte (s.I.toNat + 1)).toNat = (s.reg x).toNat / 10 % 10 ∧
    (t.readByte (s.I.toNat + 2)).toNat = (s.reg x).toNat % 10 ∧
    t.pc = s.pc + 2 ∧ OnlyBytesChange s t s.I.toNat 3

/-- FX55, when its addresses are in memory: `V0..VX` at `I..I+X`, inclusive; no other byte, no register and nothing else but
`pc` changes, `I` included (R105). -/
def Obligations.RegistersAreStored : Prop :=
  ∀ (s : State) (x : Nibble), s.I.toNat + x.toNat ≤ 4095 → ∃ t, exec (.storeRegs x) s = .next t ∧
    (∀ k : Nibble, k ≤ x → t.readByte (s.I.toNat + k.toNat) = s.reg k) ∧
    t.pc = s.pc + 2 ∧ OnlyBytesChange s t s.I.toNat (x.toNat + 1)

/-- FX65, when its addresses are in memory: `V0..VX` become `mem[I..I+X]`, inclusive; no other register and nothing else but
`pc` changes, `I` included (R106). -/
def Obligations.RegistersAreLoaded : Prop :=
  ∀ (s : State) (x : Nibble), s.I.toNat + x.toNat ≤ 4095 → ∃ t, exec (.loadRegs x) s = .next t ∧
    (∀ k : Nibble, k ≤ x → t.reg k = s.readByte (s.I.toNat + k.toNat)) ∧ (∀ k : Nibble, x < k → t.reg k = s.reg k) ∧
    t.pc = s.pc + 2 ∧ OnlyRegsChange s t

/-- FX33, FX55 and FX65 with an address above 4095 raise `Fatal(MEM_OOB, max(I, 4096))` and do none of their writes
(spec/20_memory.md R38; spec/92_eei_decisions.md D3, D4). -/
def Obligations.MemoryAccessOutOfRangeIsFatal : Prop :=
  ∀ (s : State) (x : Nibble),
    let info : Word := if s.I.toNat < 4096 then 4096 else s.I
    (4095 < s.I.toNat + 2 → ∃ t, exec (.ldB x) s = .next t ∧ IsFatal s t .memOob info) ∧
    (4095 < s.I.toNat + x.toNat →
      (∃ t, exec (.storeRegs x) s = .next t ∧ IsFatal s t .memOob info) ∧
      (∃ t, exec (.loadRegs x) s = .next t ∧ IsFatal s t .memOob info))

/-- What FX55 stored, FX65 with the same `X` and `I` loads back, whatever the registers hold in between (R105, R106). -/
def Obligations.StoreThenLoadRestoresRegisters : Prop :=
  ∀ (s t u w : State) (x : Nibble), s.I.toNat + x.toNat ≤ 4095 → exec (.storeRegs x) s = .next t →
    u = { t with v := u.v, pc := u.pc } → exec (.loadRegs x) u = .next w → ∀ k : Nibble, k ≤ x → w.reg k = s.reg k

/-- A store is seen by the very next fetch: after FX55 with `X` at least 1, a fetch at `I` gives the word `V0 V1`
(spec/20_memory.md R44). -/
def Obligations.StoredCodeIsFetched : Prop :=
  ∀ (s t u : State) (x : Nibble), 1 ≤ x.toNat → s.I.toNat + x.toNat ≤ 4095 → exec (.storeRegs x) s = .next t →
    u = { t with pc := s.I } → u.fetch = .ok (wordOfBytes (s.reg 0) (s.reg 1))

/-! ## Timers and keys (spec/46_timer_key.md, spec/60_exceptions.md) -/

/-- FX07, FX15, FX18: read the delay timer, write the delay timer, write the sound timer; nothing else changes but `pc`, and
no `Beep` is emitted by the instruction (R109, R110, R111; which is which is spec/93_implementation_defined.md K5). -/
def Obligations.TimersAreReadAndWritten : Prop :=
  ∀ (s : State) (x : Nibble),
    (∃ t, exec (.ldVxDt x) s = .next t ∧ t.reg x = s.dt ∧ t.pc = s.pc + 2 ∧ OnlyRegChanges s t x) ∧
    (∃ t, exec (.ldDtVx x) s = .next t ∧ t.dt = s.reg x ∧ t.pc = s.pc + 2 ∧ t = { s with dt := t.dt, pc := t.pc } ∧
      SameBytes s t) ∧
    (∃ t, exec (.ldStVx x) s = .next t ∧ t.st = s.reg x ∧ t.pc = s.pc + 2 ∧ t = { s with st := t.st, pc := t.pc } ∧
      SameBytes s t)

/-- FX0A: the machine waits for a key with target `V[X]`, whatever keys are down, and `pc` already holds the address of the
next instruction; nothing else changes, `V[X]` included (R112; spec/92_eei_decisions.md D7). -/
def Obligations.KeyWaitBegins : Prop :=
  ∀ (s : State) (x : Nibble), ∃ t, exec (.ldVxK x) s = .next t ∧ t.waitActive = true ∧ t.waitReg = x ∧
    t.pc = s.pc + 2 ∧ t = { s with waitActive := t.waitActive, waitReg := t.waitReg, pc := t.pc } ∧ SameBytes s t

/-- `ApplyInput(mask)` outside state Faulted: all 16 key flags become the mask; a key wait ends exactly when some key is down,
with the lowest such key in the target register; nothing else changes, `pc` and the divider included
(R128; spec/92_eei_decisions.md D7, D8). -/
def Obligations.ApplyInputReleasesWait : Prop :=
  ∀ (s : State) (mask : BitVec 16), s.fault = none →
    (∀ k, k < 16 → (applyInput mask s).key.getLsbD k = mask.getLsbD k) ∧
    (s.waitActive = false ∨ mask = 0 → applyInput mask s = { s with key := mask }) ∧
    (∀ k, s.waitActive = true → k < 16 → mask.getLsbD k = true → (∀ j, j < k → mask.getLsbD j = false) →
      ((applyInput mask s).reg s.waitReg).toNat = k ∧ (∀ r, r ≠ s.waitReg → (applyInput mask s).reg r = s.reg r) ∧
      applyInput mask s = { s with key := mask, waitActive := false, v := (applyInput mask s).v })

/-! ## Reset and program load (spec/70_reset_and_hazards.md) -/

/-- `Reset`, in any state and for any parameters, leaves every element of the spec's state at the value of the table of R31
(R31, R135; `div` and `fault` are spec/92_eei_decisions.md D2, D3, and the parameters, which Reset keeps, are
notes/assumptions/9.md). -/
def Obligations.ResetSetsEveryElement : Prop :=
  ∀ s : State,
    let t := hostReset s
    (∀ x, t.reg x = 0) ∧ t.pc = 0x200 ∧ t.I = 0 ∧ t.sp.val = 0 ∧ (∀ j (hj : j < 16), t.stack[j] = 0) ∧
    t.dt = 0 ∧ t.st = 0 ∧ t.div = s.params.tickDivider ∧ t.key = 0 ∧ t.waitActive = false ∧ t.waitReg = 0 ∧
    t.fault = none ∧ t.draw = false ∧ (∀ x y, t.fb.cell x y = false) ∧
    (∀ a (ha : a < 80), t.readByte a = s.params.font[a]) ∧ (∀ a, 80 ≤ a → t.readByte a = 0) ∧ t.params = s.params

/-- `LoadProgram` of up to 3582 bytes outside state Faulted: the bytes at 0x200 verbatim, then 0x0E and 0xFD; every other byte
of memory and everything else is as before. A longer image raises `Fatal(MEM_OOB, 4096)` and writes nothing
(R136; spec/92_eei_decisions.md D3, D4, D19). -/
def Obligations.LoadProgramPlacesImage : Prop :=
  ∀ (s : State) (bytes : List Byte), s.fault = none →
    let t := loadProgram bytes s
    (bytes.length ≤ 3582 →
      (∀ k (hk : k < bytes.length), t.readByte (0x200 + k) = bytes[k]) ∧
      t.readByte (0x200 + bytes.length) = 0x0E ∧ t.readByte (0x200 + bytes.length + 1) = 0xFD ∧
      (∀ a, a < 0x200 ∨ 0x200 + bytes.length + 2 ≤ a → t.readByte a = s.readByte a) ∧ t = { s with mem := t.mem }) ∧
    (3582 < bytes.length → IsFatal s t .memOob 4096)
end

