-- ==== Sys2Proof/Laws/State.lean ====
section
/-! SUPPORT. One lemma per field of State per named update, each true by rfl, so that no proof unfolds a record update. -/

namespace Sys2Proof.Machine

variable (s : State)

/-! ## setReg -/

@[simp] theorem setReg_v (x : Nibble) (b : Byte) : (s.setReg x b).v = s.v.set x.toNat b := rfl
@[simp] theorem setReg_pc (x : Nibble) (b : Byte) : (s.setReg x b).pc = s.pc := rfl
@[simp] theorem setReg_I (x : Nibble) (b : Byte) : (s.setReg x b).I = s.I := rfl
@[simp] theorem setReg_sp (x : Nibble) (b : Byte) : (s.setReg x b).sp = s.sp := rfl
@[simp] theorem setReg_stack (x : Nibble) (b : Byte) : (s.setReg x b).stack = s.stack := rfl
@[simp] theorem setReg_dt (x : Nibble) (b : Byte) : (s.setReg x b).dt = s.dt := rfl
@[simp] theorem setReg_st (x : Nibble) (b : Byte) : (s.setReg x b).st = s.st := rfl
@[simp] theorem setReg_div (x : Nibble) (b : Byte) : (s.setReg x b).div = s.div := rfl
@[simp] theorem setReg_key (x : Nibble) (b : Byte) : (s.setReg x b).key = s.key := rfl
@[simp] theorem setReg_waitActive (x : Nibble) (b : Byte) : (s.setReg x b).waitActive = s.waitActive := rfl
@[simp] theorem setReg_waitReg (x : Nibble) (b : Byte) : (s.setReg x b).waitReg = s.waitReg := rfl
@[simp] theorem setReg_fault (x : Nibble) (b : Byte) : (s.setReg x b).fault = s.fault := rfl
@[simp] theorem setReg_draw (x : Nibble) (b : Byte) : (s.setReg x b).draw = s.draw := rfl
@[simp] theorem setReg_fb (x : Nibble) (b : Byte) : (s.setReg x b).fb = s.fb := rfl
@[simp] theorem setReg_mem (x : Nibble) (b : Byte) : (s.setReg x b).mem = s.mem := rfl
@[simp] theorem setReg_params (x : Nibble) (b : Byte) : (s.setReg x b).params = s.params := rfl
@[simp] theorem setReg_rnd (x : Nibble) (b : Byte) : (s.setReg x b).rnd = s.rnd := rfl
@[simp] theorem setReg_draws (x : Nibble) (b : Byte) : (s.setReg x b).draws = s.draws := rfl
@[simp] theorem setReg_events (x : Nibble) (b : Byte) : (s.setReg x b).events = s.events := rfl

/-! ## jump -/

@[simp] theorem jump_v (a : Word) : (s.jump a).v = s.v := rfl
@[simp] theorem jump_pc (a : Word) : (s.jump a).pc = a := rfl
@[simp] theorem jump_I (a : Word) : (s.jump a).I = s.I := rfl
@[simp] theorem jump_sp (a : Word) : (s.jump a).sp = s.sp := rfl
@[simp] theorem jump_stack (a : Word) : (s.jump a).stack = s.stack := rfl
@[simp] theorem jump_dt (a : Word) : (s.jump a).dt = s.dt := rfl
@[simp] theorem jump_st (a : Word) : (s.jump a).st = s.st := rfl
@[simp] theorem jump_div (a : Word) : (s.jump a).div = s.div := rfl
@[simp] theorem jump_key (a : Word) : (s.jump a).key = s.key := rfl
@[simp] theorem jump_waitActive (a : Word) : (s.jump a).waitActive = s.waitActive := rfl
@[simp] theorem jump_waitReg (a : Word) : (s.jump a).waitReg = s.waitReg := rfl
@[simp] theorem jump_fault (a : Word) : (s.jump a).fault = s.fault := rfl
@[simp] theorem jump_draw (a : Word) : (s.jump a).draw = s.draw := rfl
@[simp] theorem jump_fb (a : Word) : (s.jump a).fb = s.fb := rfl
@[simp] theorem jump_mem (a : Word) : (s.jump a).mem = s.mem := rfl
@[simp] theorem jump_params (a : Word) : (s.jump a).params = s.params := rfl
@[simp] theorem jump_rnd (a : Word) : (s.jump a).rnd = s.rnd := rfl
@[simp] theorem jump_draws (a : Word) : (s.jump a).draws = s.draws := rfl
@[simp] theorem jump_events (a : Word) : (s.jump a).events = s.events := rfl

/-! ## advance -/

@[simp] theorem advance_v : (s.advance).v = s.v := rfl
@[simp] theorem advance_pc : (s.advance).pc = s.pc + 2 := rfl
@[simp] theorem advance_I : (s.advance).I = s.I := rfl
@[simp] theorem advance_sp : (s.advance).sp = s.sp := rfl
@[simp] theorem advance_stack : (s.advance).stack = s.stack := rfl
@[simp] theorem advance_dt : (s.advance).dt = s.dt := rfl
@[simp] theorem advance_st : (s.advance).st = s.st := rfl
@[simp] theorem advance_div : (s.advance).div = s.div := rfl
@[simp] theorem advance_key : (s.advance).key = s.key := rfl
@[simp] theorem advance_waitActive : (s.advance).waitActive = s.waitActive := rfl
@[simp] theorem advance_waitReg : (s.advance).waitReg = s.waitReg := rfl
@[simp] theorem advance_fault : (s.advance).fault = s.fault := rfl
@[simp] theorem advance_draw : (s.advance).draw = s.draw := rfl
@[simp] theorem advance_fb : (s.advance).fb = s.fb := rfl
@[simp] theorem advance_mem : (s.advance).mem = s.mem := rfl
@[simp] theorem advance_params : (s.advance).params = s.params := rfl
@[simp] theorem advance_rnd : (s.advance).rnd = s.rnd := rfl
@[simp] theorem advance_draws : (s.advance).draws = s.draws := rfl
@[simp] theorem advance_events : (s.advance).events = s.events := rfl

/-! ## skipIf -/

@[simp] theorem skipIf_v (c : Bool) : (s.skipIf c).v = s.v := rfl
@[simp] theorem skipIf_pc (c : Bool) : (s.skipIf c).pc = if c then s.pc + 4 else s.pc + 2 := rfl
@[simp] theorem skipIf_I (c : Bool) : (s.skipIf c).I = s.I := rfl
@[simp] theorem skipIf_sp (c : Bool) : (s.skipIf c).sp = s.sp := rfl
@[simp] theorem skipIf_stack (c : Bool) : (s.skipIf c).stack = s.stack := rfl
@[simp] theorem skipIf_dt (c : Bool) : (s.skipIf c).dt = s.dt := rfl
@[simp] theorem skipIf_st (c : Bool) : (s.skipIf c).st = s.st := rfl
@[simp] theorem skipIf_div (c : Bool) : (s.skipIf c).div = s.div := rfl
@[simp] theorem skipIf_key (c : Bool) : (s.skipIf c).key = s.key := rfl
@[simp] theorem skipIf_waitActive (c : Bool) : (s.skipIf c).waitActive = s.waitActive := rfl
@[simp] theorem skipIf_waitReg (c : Bool) : (s.skipIf c).waitReg = s.waitReg := rfl
@[simp] theorem skipIf_fault (c : Bool) : (s.skipIf c).fault = s.fault := rfl
@[simp] theorem skipIf_draw (c : Bool) : (s.skipIf c).draw = s.draw := rfl
@[simp] theorem skipIf_fb (c : Bool) : (s.skipIf c).fb = s.fb := rfl
@[simp] theorem skipIf_mem (c : Bool) : (s.skipIf c).mem = s.mem := rfl
@[simp] theorem skipIf_params (c : Bool) : (s.skipIf c).params = s.params := rfl
@[simp] theorem skipIf_rnd (c : Bool) : (s.skipIf c).rnd = s.rnd := rfl
@[simp] theorem skipIf_draws (c : Bool) : (s.skipIf c).draws = s.draws := rfl
@[simp] theorem skipIf_events (c : Bool) : (s.skipIf c).events = s.events := rfl

/-! ## emit -/

@[simp] theorem emit_v (e : Event) : (s.emit e).v = s.v := rfl
@[simp] theorem emit_pc (e : Event) : (s.emit e).pc = s.pc := rfl
@[simp] theorem emit_I (e : Event) : (s.emit e).I = s.I := rfl
@[simp] theorem emit_sp (e : Event) : (s.emit e).sp = s.sp := rfl
@[simp] theorem emit_stack (e : Event) : (s.emit e).stack = s.stack := rfl
@[simp] theorem emit_dt (e : Event) : (s.emit e).dt = s.dt := rfl
@[simp] theorem emit_st (e : Event) : (s.emit e).st = s.st := rfl
@[simp] theorem emit_div (e : Event) : (s.emit e).div = s.div := rfl
@[simp] theorem emit_key (e : Event) : (s.emit e).key = s.key := rfl
@[simp] theorem emit_waitActive (e : Event) : (s.emit e).waitActive = s.waitActive := rfl
@[simp] theorem emit_waitReg (e : Event) : (s.emit e).waitReg = s.waitReg := rfl
@[simp] theorem emit_fault (e : Event) : (s.emit e).fault = s.fault := rfl
@[simp] theorem emit_draw (e : Event) : (s.emit e).draw = s.draw := rfl
@[simp] theorem emit_fb (e : Event) : (s.emit e).fb = s.fb := rfl
@[simp] theorem emit_mem (e : Event) : (s.emit e).mem = s.mem := rfl
@[simp] theorem emit_params (e : Event) : (s.emit e).params = s.params := rfl
@[simp] theorem emit_rnd (e : Event) : (s.emit e).rnd = s.rnd := rfl
@[simp] theorem emit_draws (e : Event) : (s.emit e).draws = s.draws := rfl
@[simp] theorem emit_events (e : Event) : (s.emit e).events = s.events ++ [e] := rfl

/-! ## raiseFatal -/

@[simp] theorem raiseFatal_v (c : Cause) (i : Word) : (s.raiseFatal c i).v = s.v := rfl
@[simp] theorem raiseFatal_pc (c : Cause) (i : Word) : (s.raiseFatal c i).pc = s.pc := rfl
@[simp] theorem raiseFatal_I (c : Cause) (i : Word) : (s.raiseFatal c i).I = s.I := rfl
@[simp] theorem raiseFatal_sp (c : Cause) (i : Word) : (s.raiseFatal c i).sp = s.sp := rfl
@[simp] theorem raiseFatal_stack (c : Cause) (i : Word) : (s.raiseFatal c i).stack = s.stack := rfl
@[simp] theorem raiseFatal_dt (c : Cause) (i : Word) : (s.raiseFatal c i).dt = s.dt := rfl
@[simp] theorem raiseFatal_st (c : Cause) (i : Word) : (s.raiseFatal c i).st = s.st := rfl
@[simp] theorem raiseFatal_div (c : Cause) (i : Word) : (s.raiseFatal c i).div = s.div := rfl
@[simp] theorem raiseFatal_key (c : Cause) (i : Word) : (s.raiseFatal c i).key = s.key := rfl
@[simp] theorem raiseFatal_waitActive (c : Cause) (i : Word) : (s.raiseFatal c i).waitActive = s.waitActive := rfl
@[simp] theorem raiseFatal_waitReg (c : Cause) (i : Word) : (s.raiseFatal c i).waitReg = s.waitReg := rfl
@[simp] theorem raiseFatal_fault (c : Cause) (i : Word) : (s.raiseFatal c i).fault = some ⟨c, i⟩ := rfl
@[simp] theorem raiseFatal_draw (c : Cause) (i : Word) : (s.raiseFatal c i).draw = s.draw := rfl
@[simp] theorem raiseFatal_fb (c : Cause) (i : Word) : (s.raiseFatal c i).fb = s.fb := rfl
@[simp] theorem raiseFatal_mem (c : Cause) (i : Word) : (s.raiseFatal c i).mem = s.mem := rfl
@[simp] theorem raiseFatal_params (c : Cause) (i : Word) : (s.raiseFatal c i).params = s.params := rfl
@[simp] theorem raiseFatal_rnd (c : Cause) (i : Word) : (s.raiseFatal c i).rnd = s.rnd := rfl
@[simp] theorem raiseFatal_draws (c : Cause) (i : Word) : (s.raiseFatal c i).draws = s.draws := rfl
@[simp] theorem raiseFatal_events (c : Cause) (i : Word) : (s.raiseFatal c i).events = s.events ++ [.fatal ⟨c, i⟩] := rfl

/-! ## raiseMemOob -/

@[simp] theorem raiseMemOob_v (bad : Nat) : (s.raiseMemOob bad).v = s.v := rfl
@[simp] theorem raiseMemOob_pc (bad : Nat) : (s.raiseMemOob bad).pc = s.pc := rfl
@[simp] theorem raiseMemOob_I (bad : Nat) : (s.raiseMemOob bad).I = s.I := rfl
@[simp] theorem raiseMemOob_sp (bad : Nat) : (s.raiseMemOob bad).sp = s.sp := rfl
@[simp] theorem raiseMemOob_stack (bad : Nat) : (s.raiseMemOob bad).stack = s.stack := rfl
@[simp] theorem raiseMemOob_dt (bad : Nat) : (s.raiseMemOob bad).dt = s.dt := rfl
@[simp] theorem raiseMemOob_st (bad : Nat) : (s.raiseMemOob bad).st = s.st := rfl
@[simp] theorem raiseMemOob_div (bad : Nat) : (s.raiseMemOob bad).div = s.div := rfl
@[simp] theorem raiseMemOob_key (bad : Nat) : (s.raiseMemOob bad).key = s.key := rfl
@[simp] theorem raiseMemOob_waitActive (bad : Nat) : (s.raiseMemOob bad).waitActive = s.waitActive := rfl
@[simp] theorem raiseMemOob_waitReg (bad : Nat) : (s.raiseMemOob bad).waitReg = s.waitReg := rfl
@[simp] theorem raiseMemOob_fault (bad : Nat) : (s.raiseMemOob bad).fault = some ⟨.memOob, BitVec.ofNat 16 bad⟩ := rfl
@[simp] theorem raiseMemOob_draw (bad : Nat) : (s.raiseMemOob bad).draw = s.draw := rfl
@[simp] theorem raiseMemOob_fb (bad : Nat) : (s.raiseMemOob bad).fb = s.fb := rfl
@[simp] theorem raiseMemOob_mem (bad : Nat) : (s.raiseMemOob bad).mem = s.mem := rfl
@[simp] theorem raiseMemOob_params (bad : Nat) : (s.raiseMemOob bad).params = s.params := rfl
@[simp] theorem raiseMemOob_rnd (bad : Nat) : (s.raiseMemOob bad).rnd = s.rnd := rfl
@[simp] theorem raiseMemOob_draws (bad : Nat) : (s.raiseMemOob bad).draws = s.draws := rfl
@[simp] theorem raiseMemOob_events (bad : Nat) : (s.raiseMemOob bad).events = s.events ++ [.fatal ⟨.memOob, BitVec.ofNat 16 bad⟩] := rfl

/-! ## setFlag -/

@[simp] theorem setFlag_v (f : Bool) : (s.setFlag f).v = s.v.set 15 (flagByte f) := rfl
@[simp] theorem setFlag_pc (f : Bool) : (s.setFlag f).pc = s.pc := rfl
@[simp] theorem setFlag_I (f : Bool) : (s.setFlag f).I = s.I := rfl
@[simp] theorem setFlag_sp (f : Bool) : (s.setFlag f).sp = s.sp := rfl
@[simp] theorem setFlag_stack (f : Bool) : (s.setFlag f).stack = s.stack := rfl
@[simp] theorem setFlag_dt (f : Bool) : (s.setFlag f).dt = s.dt := rfl
@[simp] theorem setFlag_st (f : Bool) : (s.setFlag f).st = s.st := rfl
@[simp] theorem setFlag_div (f : Bool) : (s.setFlag f).div = s.div := rfl
@[simp] theorem setFlag_key (f : Bool) : (s.setFlag f).key = s.key := rfl
@[simp] theorem setFlag_waitActive (f : Bool) : (s.setFlag f).waitActive = s.waitActive := rfl
@[simp] theorem setFlag_waitReg (f : Bool) : (s.setFlag f).waitReg = s.waitReg := rfl
@[simp] theorem setFlag_fault (f : Bool) : (s.setFlag f).fault = s.fault := rfl
@[simp] theorem setFlag_draw (f : Bool) : (s.setFlag f).draw = s.draw := rfl
@[simp] theorem setFlag_fb (f : Bool) : (s.setFlag f).fb = s.fb := rfl
@[simp] theorem setFlag_mem (f : Bool) : (s.setFlag f).mem = s.mem := rfl
@[simp] theorem setFlag_params (f : Bool) : (s.setFlag f).params = s.params := rfl
@[simp] theorem setFlag_rnd (f : Bool) : (s.setFlag f).rnd = s.rnd := rfl
@[simp] theorem setFlag_draws (f : Bool) : (s.setFlag f).draws = s.draws := rfl
@[simp] theorem setFlag_events (f : Bool) : (s.setFlag f).events = s.events := rfl

/-! ## setResultAndFlag -/

@[simp] theorem setResultAndFlag_v (x : Nibble) (b : Byte) (f : Bool) : (s.setResultAndFlag x b f).v = (s.v.set x.toNat b).set 15 (flagByte f) := rfl
@[simp] theorem setResultAndFlag_pc (x : Nibble) (b : Byte) (f : Bool) : (s.setResultAndFlag x b f).pc = s.pc := rfl
@[simp] theorem setResultAndFlag_I (x : Nibble) (b : Byte) (f : Bool) : (s.setResultAndFlag x b f).I = s.I := rfl
@[simp] theorem setResultAndFlag_sp (x : Nibble) (b : Byte) (f : Bool) : (s.setResultAndFlag x b f).sp = s.sp := rfl
@[simp] theorem setResultAndFlag_stack (x : Nibble) (b : Byte) (f : Bool) : (s.setResultAndFlag x b f).stack = s.stack := rfl
@[simp] theorem setResultAndFlag_dt (x : Nibble) (b : Byte) (f : Bool) : (s.setResultAndFlag x b f).dt = s.dt := rfl
@[simp] theorem setResultAndFlag_st (x : Nibble) (b : Byte) (f : Bool) : (s.setResultAndFlag x b f).st = s.st := rfl
@[simp] theorem setResultAndFlag_div (x : Nibble) (b : Byte) (f : Bool) : (s.setResultAndFlag x b f).div = s.div := rfl
@[simp] theorem setResultAndFlag_key (x : Nibble) (b : Byte) (f : Bool) : (s.setResultAndFlag x b f).key = s.key := rfl
@[simp] theorem setResultAndFlag_waitActive (x : Nibble) (b : Byte) (f : Bool) : (s.setResultAndFlag x b f).waitActive = s.waitActive := rfl
@[simp] theorem setResultAndFlag_waitReg (x : Nibble) (b : Byte) (f : Bool) : (s.setResultAndFlag x b f).waitReg = s.waitReg := rfl
@[simp] theorem setResultAndFlag_fault (x : Nibble) (b : Byte) (f : Bool) : (s.setResultAndFlag x b f).fault = s.fault := rfl
@[simp] theorem setResultAndFlag_draw (x : Nibble) (b : Byte) (f : Bool) : (s.setResultAndFlag x b f).draw = s.draw := rfl
@[simp] theorem setResultAndFlag_fb (x : Nibble) (b : Byte) (f : Bool) : (s.setResultAndFlag x b f).fb = s.fb := rfl
@[simp] theorem setResultAndFlag_mem (x : Nibble) (b : Byte) (f : Bool) : (s.setResultAndFlag x b f).mem = s.mem := rfl
@[simp] theorem setResultAndFlag_params (x : Nibble) (b : Byte) (f : Bool) : (s.setResultAndFlag x b f).params = s.params := rfl
@[simp] theorem setResultAndFlag_rnd (x : Nibble) (b : Byte) (f : Bool) : (s.setResultAndFlag x b f).rnd = s.rnd := rfl
@[simp] theorem setResultAndFlag_draws (x : Nibble) (b : Byte) (f : Bool) : (s.setResultAndFlag x b f).draws = s.draws := rfl
@[simp] theorem setResultAndFlag_events (x : Nibble) (b : Byte) (f : Bool) : (s.setResultAndFlag x b f).events = s.events := rfl

/-! ## nextRandom -/

@[simp] theorem nextRandom_v : (s.nextRandom).v = s.v := rfl
@[simp] theorem nextRandom_pc : (s.nextRandom).pc = s.pc := rfl
@[simp] theorem nextRandom_I : (s.nextRandom).I = s.I := rfl
@[simp] theorem nextRandom_sp : (s.nextRandom).sp = s.sp := rfl
@[simp] theorem nextRandom_stack : (s.nextRandom).stack = s.stack := rfl
@[simp] theorem nextRandom_dt : (s.nextRandom).dt = s.dt := rfl
@[simp] theorem nextRandom_st : (s.nextRandom).st = s.st := rfl
@[simp] theorem nextRandom_div : (s.nextRandom).div = s.div := rfl
@[simp] theorem nextRandom_key : (s.nextRandom).key = s.key := rfl
@[simp] theorem nextRandom_waitActive : (s.nextRandom).waitActive = s.waitActive := rfl
@[simp] theorem nextRandom_waitReg : (s.nextRandom).waitReg = s.waitReg := rfl
@[simp] theorem nextRandom_fault : (s.nextRandom).fault = s.fault := rfl
@[simp] theorem nextRandom_draw : (s.nextRandom).draw = s.draw := rfl
@[simp] theorem nextRandom_fb : (s.nextRandom).fb = s.fb := rfl
@[simp] theorem nextRandom_mem : (s.nextRandom).mem = s.mem := rfl
@[simp] theorem nextRandom_params : (s.nextRandom).params = s.params := rfl
@[simp] theorem nextRandom_rnd : (s.nextRandom).rnd = Config.randomByte (s.draws + 1) := rfl
@[simp] theorem nextRandom_draws : (s.nextRandom).draws = s.draws + 1 := rfl
@[simp] theorem nextRandom_events : (s.nextRandom).events = s.events := rfl

/-! ## beginStep -/

@[simp] theorem beginStep_v : (s.beginStep).v = s.v := rfl
@[simp] theorem beginStep_pc : (s.beginStep).pc = s.pc := rfl
@[simp] theorem beginStep_I : (s.beginStep).I = s.I := rfl
@[simp] theorem beginStep_sp : (s.beginStep).sp = s.sp := rfl
@[simp] theorem beginStep_stack : (s.beginStep).stack = s.stack := rfl
@[simp] theorem beginStep_dt : (s.beginStep).dt = s.dt := rfl
@[simp] theorem beginStep_st : (s.beginStep).st = s.st := rfl
@[simp] theorem beginStep_div : (s.beginStep).div = s.div := rfl
@[simp] theorem beginStep_key : (s.beginStep).key = s.key := rfl
@[simp] theorem beginStep_waitActive : (s.beginStep).waitActive = s.waitActive := rfl
@[simp] theorem beginStep_waitReg : (s.beginStep).waitReg = s.waitReg := rfl
@[simp] theorem beginStep_fault : (s.beginStep).fault = s.fault := rfl
@[simp] theorem beginStep_draw : (s.beginStep).draw = false := rfl
@[simp] theorem beginStep_fb : (s.beginStep).fb = s.fb := rfl
@[simp] theorem beginStep_mem : (s.beginStep).mem = s.mem := rfl
@[simp] theorem beginStep_params : (s.beginStep).params = s.params := rfl
@[simp] theorem beginStep_rnd : (s.beginStep).rnd = s.rnd := rfl
@[simp] theorem beginStep_draws : (s.beginStep).draws = s.draws := rfl
@[simp] theorem beginStep_events : (s.beginStep).events = s.events := rfl

/-! ## decodeFault -/

@[simp] theorem decodeFault_v (w : Word) : (s.decodeFault w).v = s.v := rfl
@[simp] theorem decodeFault_pc (w : Word) : (s.decodeFault w).pc = s.pc + 2 := rfl
@[simp] theorem decodeFault_I (w : Word) : (s.decodeFault w).I = s.I := rfl
@[simp] theorem decodeFault_sp (w : Word) : (s.decodeFault w).sp = s.sp := rfl
@[simp] theorem decodeFault_stack (w : Word) : (s.decodeFault w).stack = s.stack := rfl
@[simp] theorem decodeFault_dt (w : Word) : (s.decodeFault w).dt = s.dt := rfl
@[simp] theorem decodeFault_st (w : Word) : (s.decodeFault w).st = s.st := rfl
@[simp] theorem decodeFault_div (w : Word) : (s.decodeFault w).div = s.div := rfl
@[simp] theorem decodeFault_key (w : Word) : (s.decodeFault w).key = s.key := rfl
@[simp] theorem decodeFault_waitActive (w : Word) : (s.decodeFault w).waitActive = s.waitActive := rfl
@[simp] theorem decodeFault_waitReg (w : Word) : (s.decodeFault w).waitReg = s.waitReg := rfl
@[simp] theorem decodeFault_fault (w : Word) : (s.decodeFault w).fault = s.fault := rfl
@[simp] theorem decodeFault_draw (w : Word) : (s.decodeFault w).draw = s.draw := rfl
@[simp] theorem decodeFault_fb (w : Word) : (s.decodeFault w).fb = s.fb := rfl
@[simp] theorem decodeFault_mem (w : Word) : (s.decodeFault w).mem = s.mem := rfl
@[simp] theorem decodeFault_params (w : Word) : (s.decodeFault w).params = s.params := rfl
@[simp] theorem decodeFault_rnd (w : Word) : (s.decodeFault w).rnd = s.rnd := rfl
@[simp] theorem decodeFault_draws (w : Word) : (s.decodeFault w).draws = s.draws := rfl
@[simp] theorem decodeFault_events (w : Word) : (s.decodeFault w).events = s.events ++ [.decodeFault w s.pc] := rfl

/-! ## The accessors reg and readByte -/

@[simp] theorem jump_reg (a : Word) (r : Nibble) : (s.jump a).reg r = s.reg r := rfl
@[simp] theorem jump_readByte (a : Word) (n : Nat) : (s.jump a).readByte n = s.readByte n := rfl
@[simp] theorem advance_reg (r : Nibble) : (s.advance).reg r = s.reg r := rfl
@[simp] theorem advance_readByte (n : Nat) : (s.advance).readByte n = s.readByte n := rfl
@[simp] theorem skipIf_reg (c : Bool) (r : Nibble) : (s.skipIf c).reg r = s.reg r := rfl
@[simp] theorem skipIf_readByte (c : Bool) (n : Nat) : (s.skipIf c).readByte n = s.readByte n := rfl
@[simp] theorem emit_reg (e : Event) (r : Nibble) : (s.emit e).reg r = s.reg r := rfl
@[simp] theorem emit_readByte (e : Event) (n : Nat) : (s.emit e).readByte n = s.readByte n := rfl
@[simp] theorem raiseFatal_reg (c : Cause) (i : Word) (r : Nibble) : (s.raiseFatal c i).reg r = s.reg r := rfl
@[simp] theorem raiseFatal_readByte (c : Cause) (i : Word) (n : Nat) : (s.raiseFatal c i).readByte n = s.readByte n := rfl
@[simp] theorem raiseMemOob_reg (bad : Nat) (r : Nibble) : (s.raiseMemOob bad).reg r = s.reg r := rfl
@[simp] theorem raiseMemOob_readByte (bad : Nat) (n : Nat) : (s.raiseMemOob bad).readByte n = s.readByte n := rfl
@[simp] theorem nextRandom_reg (r : Nibble) : (s.nextRandom).reg r = s.reg r := rfl
@[simp] theorem nextRandom_readByte (n : Nat) : (s.nextRandom).readByte n = s.readByte n := rfl
@[simp] theorem beginStep_reg (r : Nibble) : (s.beginStep).reg r = s.reg r := rfl
@[simp] theorem beginStep_readByte (n : Nat) : (s.beginStep).readByte n = s.readByte n := rfl
@[simp] theorem decodeFault_reg (w : Word) (r : Nibble) : (s.decodeFault w).reg r = s.reg r := rfl
@[simp] theorem decodeFault_readByte (w : Word) (n : Nat) : (s.decodeFault w).readByte n = s.readByte n := rfl
@[simp] theorem setReg_readByte (x : Nibble) (b : Byte) (n : Nat) : (s.setReg x b).readByte n = s.readByte n := rfl
@[simp] theorem setFlag_readByte (f : Bool) (n : Nat) : (s.setFlag f).readByte n = s.readByte n := rfl
@[simp] theorem setResultAndFlag_readByte (x : Nibble) (b : Byte) (f : Bool) (n : Nat) : (s.setResultAndFlag x b f).readByte n = s.readByte n := rfl

end Sys2Proof.Machine
end

