-- ==== Sys2Proof/Laws/Memory.lean ====
section
/-! SUPPORT. The laws of memory: what a write does to a read of the same and of any other address, and that every memory
operation keeps the canonical form. -/

namespace Sys2Proof.Machine

/-! ## Reads after writes -/

theorem lookup_insert_same (a : Nat) (b : Byte) (m : Memory) (h : ∀ c ∈ m, c.1 ≠ a) :
    Memory.lookup (Memory.insert (a, b) m) a = some b := by
  induction m with
  | nil => simp [Memory.insert, Memory.lookup]
  | cons d m ih =>
    have hd : d.1 ≠ a := h d (by simp)
    have hm := ih fun c hc => h c (by simp [hc])
    unfold Memory.insert
    split
    · simp [Memory.lookup]
    · simpa [Memory.lookup, hd] using hm

theorem lookup_insert_other (a a' : Nat) (b : Byte) (m : Memory) (h : a' ≠ a) :
    Memory.lookup (Memory.insert (a, b) m) a' = Memory.lookup m a' := by
  have h' : a ≠ a' := fun e => h e.symm
  induction m with
  | nil => simp [Memory.insert, Memory.lookup, h']
  | cons d m ih =>
    unfold Memory.insert
    split
    · simp [Memory.lookup, h']
    · by_cases hd : d.1 = a'
      · simp [Memory.lookup, hd]
      · simpa [Memory.lookup, hd] using ih

theorem lookup_erase_same (a : Nat) (m : Memory) : Memory.lookup (Memory.erase m a) a = none := by
  simp [Memory.lookup, Memory.erase]

theorem lookup_erase_other (a a' : Nat) (m : Memory) (h : a' ≠ a) :
    Memory.lookup (Memory.erase m a) a' = Memory.lookup m a' := by
  induction m with
  | nil => simp [Memory.erase, Memory.lookup]
  | cons d m ih =>
    simp only [Memory.erase, Memory.lookup] at ih ⊢
    by_cases hd : d.1 = a
    · have : d.1 ≠ a' := fun e => h (e.symm.trans hd)
      simpa [hd, this, List.filter_cons, Ne.symm h] using ih
    · by_cases hd' : d.1 = a'
      · simp [hd', h]
      · simpa [List.filter_cons, hd, hd'] using ih

theorem read_write_same (font : Vector Byte 80) (m : Memory) (a : Nat) (b : Byte) :
    Memory.read font (Memory.write font m a b) a = b := by
  unfold Memory.write Memory.read
  split
  · simp [lookup_erase_same, *]
  · rw [lookup_insert_same]
    · rfl
    · intro c hc
      simpa using (List.mem_filter.mp hc).2

theorem read_write_other (font : Vector Byte 80) (m : Memory) (a a' : Nat) (b : Byte) (h : a' ≠ a) :
    Memory.read font (Memory.write font m a b) a' = Memory.read font m a' := by
  unfold Memory.write Memory.read
  split
  · rw [lookup_erase_other _ _ _ h]
  · rw [lookup_insert_other _ _ _ _ h, lookup_erase_other _ _ _ h]

/-- A run of bytes stored leaves every address outside it alone. -/
theorem read_writeBytes_outside (font : Vector Byte 80) (m : Memory) (a : Nat) (bs : List Byte) (b : Nat)
    (h : b < a ∨ a + bs.length ≤ b) :
    Memory.read font (Memory.writeBytes font m a bs) b = Memory.read font m b := by
  induction bs generalizing m a with
  | nil => rfl
  | cons v bs ih =>
    simp only [List.length_cons] at h
    rw [Memory.writeBytes, ih _ _ (by omega), read_write_other _ _ _ _ _ (by omega)]

/-- And puts its `k`th byte at the `k`th address. -/
theorem read_writeBytes_inside (font : Vector Byte 80) (m : Memory) (a : Nat) (bs : List Byte) (k : Nat)
    (h : k < bs.length) :
    Memory.read font (Memory.writeBytes font m a bs) (a + k) = bs[k] := by
  induction bs generalizing m a k with
  | nil => simp at h
  | cons v bs ih =>
    rw [Memory.writeBytes]
    cases k with
    | zero => simp [read_writeBytes_outside, read_write_same]
    | succ k =>
      have := ih (Memory.write font m a v) (a + 1) k (by simpa using h)
      rw [show a + (k + 1) = a + 1 + k by omega, this]
      rfl

/-! ## The canonical form -/

theorem wf_iff (font : Vector Byte 80) (m : Memory) :
    Memory.wf font m = true ↔
      (m.Pairwise fun c d => c.1 < d.1) ∧ ∀ c ∈ m, c.1 < memSize ∧ c.2 ≠ Memory.initial font c.1 := by
  simp [Memory.wf]

theorem mem_insert (c d : Host.Cell) (m : Memory) : d ∈ Memory.insert c m ↔ d = c ∨ d ∈ m := by
  induction m with
  | nil => simp [Memory.insert]
  | cons e m ih =>
    unfold Memory.insert
    split
    · simp
    · simp [ih]; tauto

theorem insert_pairwise (c : Host.Cell) (m : Memory) (hm : m.Pairwise fun c d => c.1 < d.1)
    (hc : ∀ d ∈ m, d.1 ≠ c.1) : (Memory.insert c m).Pairwise fun c d => c.1 < d.1 := by
  induction m with
  | nil => simp [Memory.insert]
  | cons e m ih =>
    obtain ⟨he, hm'⟩ := List.pairwise_cons.mp hm
    have hec : e.1 ≠ c.1 := hc e (by simp)
    unfold Memory.insert
    split
    · rename_i hlt
      refine List.pairwise_cons.mpr ⟨?_, hm⟩
      intro d hd
      rcases List.mem_cons.mp hd with rfl | hd
      · exact hlt
      · exact hlt.trans (he d hd)
    · rename_i hge
      refine List.pairwise_cons.mpr ⟨?_, ih hm' fun d hd => hc d (by simp [hd])⟩
      intro d hd
      rcases (mem_insert c d m).mp hd with rfl | hd
      · omega
      · exact he d hd

/-- Storing a byte at an address that exists keeps the canonical form. -/
theorem write_wf (font : Vector Byte 80) (m : Memory) (a : Nat) (b : Byte) (ha : a < memSize)
    (hm : Memory.wf font m = true) : Memory.wf font (Memory.write font m a b) = true := by
  rw [wf_iff] at hm ⊢
  have hsub : ∀ d ∈ Memory.erase m a, d ∈ m ∧ d.1 ≠ a := fun d hd => by
    simpa [Memory.erase] using hd
  have hpw : (Memory.erase m a).Pairwise fun c d => c.1 < d.1 := hm.1.filter _
  unfold Memory.write
  split
  · exact ⟨hpw, fun c hc => hm.2 c (hsub c hc).1⟩
  · refine ⟨insert_pairwise _ _ hpw fun d hd => (hsub d hd).2, fun c hc => ?_⟩
    rcases (mem_insert _ _ _).mp hc with rfl | hc
    · exact ⟨ha, by assumption⟩
    · exact hm.2 c (hsub c hc).1

theorem writeBytes_wf (font : Vector Byte 80) (m : Memory) (a : Nat) (bs : List Byte) (ha : a + bs.length ≤ memSize)
    (hm : Memory.wf font m = true) : Memory.wf font (Memory.writeBytes font m a bs) = true := by
  induction bs generalizing m a with
  | nil => exact hm
  | cons v bs ih =>
    simp only [List.length_cons] at ha
    exact ih _ _ (by omega) (write_wf _ _ _ _ (by omega) hm)

/-- The memory of a machine after Reset lists nothing, so it is in canonical form whatever the parameters. -/
theorem resetWith_memory_wf (p : Params) : Memory.wf p.font (State.resetWith p).mem = true := by
  simp [State.resetWith, wf_iff]

theorem reset_memory_wf : Memory.wf State.reset.params.font State.reset.mem = true := resetWith_memory_wf _

end Sys2Proof.Machine
end

