-- ==== Sys2Proof/Laws/Ops.lean ====
section
/-! SUPPORT. For each shared operation, what it can do, said once; proofs cite these instead of unfolding the operation. -/

namespace Sys2Proof.Machine

/-! ## Bounds (spec/20_memory.md R34, R38) -/

theorem outOfRange_eq_none {a n : Nat} : outOfRange a n = none ↔ n = 0 ∨ a + n ≤ 4096 := by
  unfold outOfRange memSize
  split
  · simp [*]
  · split <;> simp <;> omega

theorem outOfRange_eq_some {a n bad : Nat} :
    outOfRange a n = some bad ↔ 0 < n ∧ 4096 < a + n ∧ bad = max a 4096 := by
  unfold outOfRange memSize
  split
  · simp [*]
  · split
    · simp; omega
    · simp only [Option.some.injEq]
      constructor
      · rintro rfl; exact ⟨by omega, by omega, rfl⟩
      · rintro ⟨-, -, rfl⟩; rfl

theorem loadBytes_ok (s : State) {a n : Nat} (h : n = 0 ∨ a + n ≤ 4096) :
    s.loadBytes a n = .ok ((List.range n).map fun k => s.readByte (a + k)) := by
  simp [State.loadBytes, outOfRange_eq_none.mpr h]

theorem loadBytes_error (s : State) {a n : Nat} (hn : 0 < n) (h : 4096 < a + n) :
    s.loadBytes a n = .error (max a 4096) := by
  simp [State.loadBytes, outOfRange_eq_some.mpr ⟨hn, h, rfl⟩]

theorem storeBytes_ok (s : State) {a : Nat} {bs : List Byte} (h : bs.length = 0 ∨ a + bs.length ≤ 4096) :
    s.storeBytes a bs = .ok { s with mem := Memory.writeBytes s.params.font s.mem a bs } := by
  simp [State.storeBytes, outOfRange_eq_none.mpr h]

theorem storeBytes_error (s : State) {a : Nat} {bs : List Byte} (hn : 0 < bs.length) (h : 4096 < a + bs.length) :
    s.storeBytes a bs = .error (max a 4096) := by
  simp [State.storeBytes, outOfRange_eq_some.mpr ⟨hn, h, rfl⟩]

/-- All a store of several bytes can do: it is refused whole, or it writes its bytes and nothing else. -/
theorem storeBytes_cases (s : State) (a : Nat) (bs : List Byte) :
    (0 < bs.length ∧ 4096 < a + bs.length ∧ s.storeBytes a bs = .error (max a 4096)) ∨
    ((bs.length = 0 ∨ a + bs.length ≤ 4096) ∧ ∃ t, s.storeBytes a bs = .ok t ∧
      t = { s with mem := t.mem } ∧
      (∀ k (h : k < bs.length), t.readByte (a + k) = bs[k]) ∧
      (∀ b, b < a ∨ a + bs.length ≤ b → t.readByte b = s.readByte b) ∧
      (Memory.wf s.params.font s.mem = true → Memory.wf s.params.font t.mem = true)) := by
  by_cases h : bs.length = 0 ∨ a + bs.length ≤ 4096
  · refine .inr ⟨h, _, storeBytes_ok s h, rfl, fun k hk => ?_, fun b hb => ?_, fun hw => ?_⟩
    · exact read_writeBytes_inside _ _ _ _ _ hk
    · exact read_writeBytes_outside _ _ _ _ _ hb
    · rcases h with h | h
      · rw [List.length_eq_zero_iff.mp h]; exact hw
      · exact writeBytes_wf _ _ _ _ h hw
  · exact .inl ⟨by omega, by omega, storeBytes_error s (by omega) (by omega)⟩

/-- All a load of several bytes can do. -/
theorem loadBytes_cases (s : State) (a n : Nat) :
    (0 < n ∧ 4096 < a + n ∧ s.loadBytes a n = .error (max a 4096)) ∨
    ((n = 0 ∨ a + n ≤ 4096) ∧ s.loadBytes a n = .ok ((List.range n).map fun k => s.readByte (a + k))) := by
  by_cases h : n = 0 ∨ a + n ≤ 4096
  · exact .inr ⟨h, loadBytes_ok s h⟩
  · exact .inl ⟨by omega, by omega, loadBytes_error s (by omega) (by omega)⟩

/-- All a fetch can do (spec/40_step_cycle.md R57, spec/20_memory.md R37). -/
theorem fetch_cases (s : State) :
    (4094 < s.pc.toNat ∧ s.fetch = .error (max s.pc.toNat 4096)) ∨
    (s.pc.toNat ≤ 4094 ∧ s.fetch = .ok (wordOfBytes (s.readByte s.pc.toNat) (s.readByte (s.pc.toNat + 1)))) := by
  unfold State.fetch
  by_cases h : s.pc.toNat ≤ 4094
  · exact .inr ⟨h, by rw [outOfRange_eq_none.mpr (by omega)]⟩
  · exact .inl ⟨by omega, by rw [outOfRange_eq_some.mpr ⟨by omega, by omega, rfl⟩]⟩

/-! ## Registers -/

@[simp] theorem reg_setReg_same (s : State) (x : Nibble) (b : Byte) : (s.setReg x b).reg x = b := by
  simp [State.reg, State.setReg]

theorem reg_setReg_other (s : State) {x r : Nibble} (b : Byte) (h : r ≠ x) : (s.setReg x b).reg r = s.reg r := by
  have : x.toNat ≠ r.toNat := fun e => h (BitVec.eq_of_toNat_eq e.symm)
  simp [State.reg, State.setReg, this]

theorem reg_setReg (s : State) (x r : Nibble) (b : Byte) :
    (s.setReg x b).reg r = if r = x then b else s.reg r := by
  split
  · next h => rw [h, reg_setReg_same]
  · next h => exact reg_setReg_other s b h

/-- The flag is what VF holds afterwards, whatever the destination (spec/44_alu.md R87). -/
theorem reg_setResultAndFlag (s : State) (x r : Nibble) (b : Byte) (f : Bool) :
    (s.setResultAndFlag x b f).reg r = if r = 0xF then flagByte f else if r = x then b else s.reg r := by
  rw [State.setResultAndFlag, State.setFlag, reg_setReg, reg_setReg]

theorem writeRegs_getElem (v : Vector Byte 16) (k : Nat) (bs : List Byte) (r : Nat) (hr : r < 16) :
    (writeRegs v k bs)[r] = if h : k ≤ r ∧ r - k < bs.length then bs[r - k]'h.2 else v[r] := by
  induction bs generalizing v k with
  | nil => simp [writeRegs]
  | cons b bs ih =>
    rw [writeRegs, ih]
    by_cases h1 : k + 1 ≤ r ∧ r - (k + 1) < bs.length
    · rw [dif_pos h1, dif_pos ⟨by omega, by simp only [List.length_cons]; omega⟩]
      simp only [show r - k = r - (k + 1) + 1 by omega, List.getElem_cons_succ]
    · rw [dif_neg h1]
      by_cases h2 : k = r
      · subst h2; simp
      · rw [dif_neg (by simp only [List.length_cons]; omega), Vector.getElem_setIfInBounds_ne _ h2]

/-! ## The call stack -/

/-- All a push can do (spec/42_control_flow.md R74). -/
theorem push_cases (s : State) (a : Word) :
    (s.sp.val = 16 ∧ s.push a = none) ∨
    (∃ h : s.sp.val < 16, s.push a = some { s with stack := s.stack.set s.sp.val a, sp := ⟨s.sp.val + 1, by omega⟩ }) := by
  unfold State.push
  by_cases h : s.sp.val < 16
  · exact .inr ⟨h, by rw [dif_pos h]⟩
  · exact .inl ⟨by omega, by rw [dif_neg h]⟩

/-- All a pop can do (R72). -/
theorem pop_cases (s : State) :
    (s.sp.val = 0 ∧ s.pop = none) ∨
    (∃ h : 0 < s.sp.val, s.pop = some (s.stack[s.sp.val - 1]'(by omega), { s with sp := ⟨s.sp.val - 1, by omega⟩ })) := by
  unfold State.pop
  by_cases h : 0 < s.sp.val
  · exact .inr ⟨h, by rw [dif_pos h]⟩
  · exact .inl ⟨by omega, by rw [dif_neg h]⟩

/-! ## The framebuffer -/

@[simp] theorem cell_clear (x : Fin 64) (y : Fin 32) : Framebuffer.cell Framebuffer.clear x y = false := by
  simp [Framebuffer.cell, Framebuffer.clear]

/-- A flip changes its own cell and no other. -/
theorem cell_flip (fb : Framebuffer) (x px : Fin 64) (y py : Fin 32) :
    Framebuffer.cell (Framebuffer.flip fb x y) px py =
      if px = x ∧ py = y then !(Framebuffer.cell fb x y) else Framebuffer.cell fb px py := by
  by_cases hy : y.val = py.val
  · have hy' : y = py := Fin.ext hy
    subst hy'
    by_cases hx : x.val = px.val
    · have hx' : x = px := Fin.ext hx
      subst hx'
      simp [Framebuffer.cell, Framebuffer.flip]
    · have : ¬(px = x) := fun e => hx (congrArg Fin.val e.symm)
      simp [Framebuffer.cell, Framebuffer.flip, hx, this]
  · have : ¬(py = y) := fun e => hy (congrArg Fin.val e.symm)
    simp [Framebuffer.cell, Framebuffer.flip, hy, this]

/-! ## The parts of a step (spec/40_step_cycle.md) -/

/-- A render adds at most one event and changes nothing else (R60). -/
theorem render_eq (s : State) :
    s.render = { s with events := s.events ++ if s.draw then [.render s.fb] else [] } := by
  unfold State.render State.emit
  split <;> simp

/-- All `Tick()` can do: on the divider's last count a timer tick, otherwise a count (R125). -/
theorem tick_cases (s : State) :
    (s.div ≤ 1 ∧ s.tick =
      { s with
        div := s.params.tickDivider
        dt := if s.dt = 0 then 0 else s.dt - 1
        st := if s.st = 0 then 0 else s.st - 1
        events := s.events ++ if s.st = 1 then [.beep] else [] }) ∨
    (2 ≤ s.div ∧ s.tick = { s with div := s.div - 1 }) := by
  have hdue : s.tickDue = decide (s.div ≤ 1) := by
    unfold State.tickDue
    rw [Bool.eq_iff_iff]; simp only [beq_iff_eq, decide_eq_true_eq]; omega
  unfold State.tick
  by_cases h : s.div ≤ 1
  · exact .inl ⟨h, by simp [hdue, h]⟩
  · refine .inr ⟨by omega, ?_⟩
    simp only [hdue, h, decide_false, Bool.false_eq_true, and_false, if_false, List.append_nil]
    congr 1 <;> split <;> simp_all

/-- What a tick can change at all, and that it adds at most a beep to the events. -/
theorem tick_frame (s : State) :
    ∃ beeps, (beeps = [] ∨ beeps = [Event.beep]) ∧
      s.tick = { s with div := s.tick.div, dt := s.tick.dt, st := s.tick.st, events := s.events ++ beeps } :=
  ⟨if s.st = 1 ∧ s.tickDue then [.beep] else [], by split <;> simp, rfl⟩

/-- All the end of a Running step can do (R56, R63). -/
theorem endStep_cases (s t : State) :
    (t.fault.isSome ∧ s.endStep t = { t with draw := s.draw }) ∨ (t.fault = none ∧ s.endStep t = t.render.tick) := by
  unfold State.endStep
  cases h : t.fault with
  | none => exact .inr ⟨rfl, by simp⟩
  | some f => exact .inl ⟨rfl, by simp⟩

/-- A fatal condition raised in the execute part ends the step: the latch, the event, and nothing else (R63, R120). -/
theorem endStep_raiseFatal (s t : State) (c : Cause) (info : Word) (h : t = s.beginStep) :
    s.endStep (t.raiseFatal c info) = s.raiseFatal c info := by
  subst h; rfl

theorem control_faulted {s : State} : s.control = .faulted ↔ s.fault.isSome := by
  unfold State.control
  split <;> simp_all
  split <;> simp

theorem control_awaitingKey {s : State} : s.control = .awaitingKey ↔ s.fault = none ∧ s.waitActive = true := by
  unfold State.control
  cases s.fault <;> cases s.waitActive <;> simp

theorem control_running {s : State} : s.control = .running ↔ s.fault = none ∧ s.waitActive = false := by
  unfold State.control
  cases s.fault <;> cases s.waitActive <;> simp

/-- All a step can do, by the controlling state, the fetch and the decoder (R55, R56). -/
theorem step_cases (s : State) :
    (s.fault.isSome ∧ step s = .next s) ∨
    (s.fault = none ∧ s.waitActive = true ∧ step s = .next s.beginStep.tick) ∨
    (s.fault = none ∧ s.waitActive = false ∧
      ((∃ bad, s.fetch = .error bad ∧ step s = .next (s.raiseMemOob bad)) ∨
       (∃ w e, s.fetch = .ok w ∧ decode w = .error e ∧ step s = .next (s.endStep (s.beginStep.decodeFault w))) ∨
       (∃ w i, s.fetch = .ok w ∧ decode w = .ok i ∧ step s = onNext s.endStep (exec i s.beginStep)))) := by
  unfold step
  cases hc : s.control with
  | faulted => exact .inl ⟨control_faulted.mp hc, rfl⟩
  | awaitingKey => exact .inr (.inl ⟨(control_awaitingKey.mp hc).1, (control_awaitingKey.mp hc).2, rfl⟩)
  | running =>
    refine .inr (.inr ⟨(control_running.mp hc).1, (control_running.mp hc).2, ?_⟩)
    cases hf : s.fetch with
    | error bad => exact .inl ⟨bad, rfl, rfl⟩
    | ok w =>
      cases hd : decode w with
      | error e => exact .inr (.inl ⟨w, e, rfl, hd, by simp [hd]⟩)
      | ok i => exact .inr (.inr ⟨w, i, rfl, hd, by simp [hd]⟩)

/-! ## Keys -/

/-- The lowest pressed key, and that there is one when the mask is not zero (spec/60_exceptions.md R128). -/
theorem lowestKey_eq_some {mask : BitVec 16} {k : Nat} :
    lowestKey mask = some k ↔ k < 16 ∧ mask.getLsbD k = true ∧ ∀ j, j < k → mask.getLsbD j = false := by
  unfold lowestKey
  rw [List.find?_range_eq_some]
  simpa using and_left_comm

theorem lowestKey_eq_none {mask : BitVec 16} : lowestKey mask = none ↔ mask = 0 := by
  unfold lowestKey
  rw [List.find?_eq_none]
  constructor
  · intro h
    apply BitVec.eq_of_getLsbD_eq
    intro i hi
    simpa using h i (by simpa using hi)
  · rintro rfl; simp

end Sys2Proof.Machine
end

