-- ==== Sys2Proof/Laws/PerInstr.lean ====
section
/-! SUPPORT. The family of statements made per instruction: the word an instruction encodes to belongs to the instruction's
own row of the opcode map (spec/30_encoding.md R51). -/

namespace Sys2Proof.Laws.EncodedRow

/-- The word of the instruction is selected by the instruction's row of R51. -/
def Statement (i : Instr) : Prop := i.row.selects (encode i) = true

/-! Masking a word field by field, one lemma per mask of R51. -/

theorem mask_F000 (c : Nibble) (nnn : Imm12) : (c ++ nnn : Word) &&& 0xF000#16 = c ++ 0#12 := by
  rw [show (0xF000#16 : Word) = 0xF#4 ++ 0x000#12 by decide, BitVec.and_append]
  congr 1
  · exact BitVec.and_allOnes
  · exact BitVec.and_zero

theorem mask_F000_xnn (c x : Nibble) (nn : Byte) : (c ++ x ++ nn : Word) &&& 0xF000#16 = c ++ 0#4 ++ 0#8 := by
  rw [show (0xF000#16 : Word) = 0xF#4 ++ 0x0#4 ++ 0x00#8 by decide, BitVec.and_append, BitVec.and_append]
  congr 1
  · congr 1
    · exact BitVec.and_allOnes
    · exact BitVec.and_zero
  · exact BitVec.and_zero

theorem mask_F0FF (c x : Nibble) (nn : Byte) : (c ++ x ++ nn : Word) &&& 0xF0FF#16 = c ++ 0#4 ++ nn := by
  rw [show (0xF0FF#16 : Word) = 0xF#4 ++ 0x0#4 ++ 0xFF#8 by decide, BitVec.and_append, BitVec.and_append]
  congr 1
  · congr 1
    · exact BitVec.and_allOnes
    · exact BitVec.and_zero
  · exact BitVec.and_allOnes

theorem mask_F00F (c x y n : Nibble) : (c ++ x ++ y ++ n : Word) &&& 0xF00F#16 = c ++ 0#4 ++ 0#4 ++ n := by
  rw [show (0xF00F#16 : Word) = 0xF#4 ++ 0x0#4 ++ 0x0#4 ++ 0xF#4 by decide, BitVec.and_append, BitVec.and_append,
    BitVec.and_append]
  congr 1
  · congr 1
    · congr 1
      · exact BitVec.and_allOnes
      · exact BitVec.and_zero
    · exact BitVec.and_zero
  · exact BitVec.and_allOnes

theorem mask_F000_xyn (c x y n : Nibble) : (c ++ x ++ y ++ n : Word) &&& 0xF000#16 = c ++ 0#4 ++ 0#4 ++ 0#4 := by
  rw [show (0xF000#16 : Word) = 0xF#4 ++ 0x0#4 ++ 0x0#4 ++ 0x0#4 by decide, BitVec.and_append, BitVec.and_append,
    BitVec.and_append]
  congr 1
  · congr 1
    · congr 1
      · exact BitVec.and_allOnes
      · exact BitVec.and_zero
    · exact BitVec.and_zero
  · exact BitVec.and_zero

/-! One lemma per constructor. -/

theorem cls : Statement .cls := by unfold Statement; decide
theorem ret : Statement .ret := by unfold Statement; decide
theorem jp (nnn : Imm12) : Statement (.jp nnn) := decide_eq_true (mask_F000 _ _)
theorem call (nnn : Imm12) : Statement (.call nnn) := decide_eq_true (mask_F000 _ _)
theorem seImm (x : Nibble) (nn : Byte) : Statement (.seImm x nn) := decide_eq_true (mask_F000_xnn _ _ _)
theorem sneImm (x : Nibble) (nn : Byte) : Statement (.sneImm x nn) := decide_eq_true (mask_F000_xnn _ _ _)
theorem seReg (x y : Nibble) : Statement (.seReg x y) := decide_eq_true (mask_F00F _ _ _ _)
theorem ldImm (x : Nibble) (nn : Byte) : Statement (.ldImm x nn) := decide_eq_true (mask_F000_xnn _ _ _)
theorem addImm (x : Nibble) (nn : Byte) : Statement (.addImm x nn) := decide_eq_true (mask_F000_xnn _ _ _)
theorem ldReg (x y : Nibble) : Statement (.ldReg x y) := decide_eq_true (mask_F00F _ _ _ _)
theorem orReg (x y : Nibble) : Statement (.orReg x y) := decide_eq_true (mask_F00F _ _ _ _)
theorem andReg (x y : Nibble) : Statement (.andReg x y) := decide_eq_true (mask_F00F _ _ _ _)
theorem xorReg (x y : Nibble) : Statement (.xorReg x y) := decide_eq_true (mask_F00F _ _ _ _)
theorem addReg (x y : Nibble) : Statement (.addReg x y) := decide_eq_true (mask_F00F _ _ _ _)
theorem subReg (x y : Nibble) : Statement (.subReg x y) := decide_eq_true (mask_F00F _ _ _ _)
theorem shr (x y : Nibble) : Statement (.shr x y) := decide_eq_true (mask_F00F _ _ _ _)
theorem subnReg (x y : Nibble) : Statement (.subnReg x y) := decide_eq_true (mask_F00F _ _ _ _)
theorem shl (x y : Nibble) : Statement (.shl x y) := decide_eq_true (mask_F00F _ _ _ _)
theorem sneReg (x y : Nibble) : Statement (.sneReg x y) := decide_eq_true (mask_F00F _ _ _ _)
theorem ldI (nnn : Imm12) : Statement (.ldI nnn) := decide_eq_true (mask_F000 _ _)
theorem jpV0 (nnn : Imm12) : Statement (.jpV0 nnn) := decide_eq_true (mask_F000 _ _)
theorem rnd (x : Nibble) (nn : Byte) : Statement (.rnd x nn) := decide_eq_true (mask_F000_xnn _ _ _)
theorem drw (x y n : Nibble) : Statement (.drw x y n) := decide_eq_true (mask_F000_xyn _ _ _ _)
theorem skp (x : Nibble) : Statement (.skp x) := decide_eq_true (mask_F0FF _ _ _)
theorem sknp (x : Nibble) : Statement (.sknp x) := decide_eq_true (mask_F0FF _ _ _)
theorem ldVxDt (x : Nibble) : Statement (.ldVxDt x) := decide_eq_true (mask_F0FF _ _ _)
theorem ldVxK (x : Nibble) : Statement (.ldVxK x) := decide_eq_true (mask_F0FF _ _ _)
theorem ldDtVx (x : Nibble) : Statement (.ldDtVx x) := decide_eq_true (mask_F0FF _ _ _)
theorem ldStVx (x : Nibble) : Statement (.ldStVx x) := decide_eq_true (mask_F0FF _ _ _)
theorem addI (x : Nibble) : Statement (.addI x) := decide_eq_true (mask_F0FF _ _ _)
theorem ldF (x : Nibble) : Statement (.ldF x) := decide_eq_true (mask_F0FF _ _ _)
theorem ldB (x : Nibble) : Statement (.ldB x) := decide_eq_true (mask_F0FF _ _ _)
theorem storeRegs (x : Nibble) : Statement (.storeRegs x) := decide_eq_true (mask_F0FF _ _ _)
theorem loadRegs (x : Nibble) : Statement (.loadRegs x) := decide_eq_true (mask_F0FF _ _ _)

end Sys2Proof.Laws.EncodedRow
end

