-- ==== Sys2Proof/Laws/Run.lean ====
section
/-! SUPPORT. The end of a run (spec/40_step_cycle.md R66): which step it is, what it leaves, and that a run has only one. -/

namespace Sys2Proof.Machine

/-- A run that has ended has ended for as long as the record of events goes on from there, that is, until Reset. -/
theorem runEnded_mono {s t : State} (h : s.events <+: t.events) (hs : s.RunEnded) : t.RunEnded :=
  hs.imp fun _ ha => h.subset ha

/-- After its end the run has ended. -/
theorem endOfRun_runEnded {s t : State} {a : Word} (h : EndOfRun s t a) : t.RunEnded :=
  ⟨a, h.2.2.subset (by simp)⟩

/-- A run has one end: no later step of it is an end of the run again. -/
theorem endOfRun_only_once {s t s' t' : State} {a b : Word} (h : EndOfRun s t a) (hs : t.events <+: s'.events) :
    ¬ EndOfRun s' t' b :=
  fun h' => h'.1 (runEnded_mono hs (endOfRun_runEnded h))

/-- In state Running with the sentinel at `pc`, and the sentinel not reported before, the step is the end of the run: the
final state has `pc = a + 2`, and the tick has run for it (R66). -/
theorem endOfRun_of_sentinel {s : State} (hf : s.fault = none) (hw : s.waitActive = false) (hs : s.fetch = .ok sentinel)
    (hr : ¬ s.RunEnded) :
    ∃ t, EndOfRun s t s.pc ∧ t = (s.beginStep.decodeFault sentinel).tick ∧ t.pc = s.pc + 2 := by
  have hd : decode sentinel = .error (.unrecognised sentinel) := by decide
  have hstep : step s = .next (s.beginStep.decodeFault sentinel).tick := by
    rcases step_cases s with ⟨h, -⟩ | ⟨-, h, -⟩ | ⟨-, -, ⟨bad, h, -⟩ | ⟨w, e, h, -, e'⟩ | ⟨w, i, h, h', -⟩⟩
    · simp [hf] at h
    · simp [hw] at h
    · rw [hs] at h; cases h
    · rw [hs] at h; cases h
      rw [e']
      rcases endStep_cases s (s.beginStep.decodeFault sentinel) with ⟨h, -⟩ | ⟨-, h⟩
      · simp [hf] at h
      · rw [h]; rfl
    · rw [hs] at h; cases h
      rw [hd] at h'; cases h'
  exact ⟨_, ⟨hr, hstep, List.prefix_append _ _⟩, rfl, rfl⟩

end Sys2Proof.Machine
end

