-- ==== Sys2Proof/Laws/Sprite.lean ====
section
/-! SUPPORT. What drawing a sprite does: the sprite as the list of pixels its set bits fall on, no pixel twice, each of them
flipped, and a collision noted when one of them was set (spec/41_display.md R68). -/

namespace Sys2Proof.Machine

/-- The pixels one sprite row draws, left to right. -/
def pixelsOfRow (b : Byte) (x0 y : Nat) : List (Fin 64 × Fin 32) :=
  ((List.range 8).filter (spriteBit b)).map fun col => (wrapX (x0 + col), wrapY y)

/-- The pixels a sprite draws, row by row. -/
def pixelsOfSprite : List Byte → Nat → Nat → List (Fin 64 × Fin 32)
  | [], _, _ => []
  | b :: bs, x0, y => pixelsOfRow b x0 y ++ pixelsOfSprite bs x0 (y + 1)

/-- Draw a list of pixels. -/
def plotPixels (c : Canvas) (ps : List (Fin 64 × Fin 32)) : Canvas := ps.foldl (fun c p => plotPixel c p.1 p.2) c

theorem plotRow_eq (b : Byte) (x0 y : Nat) (c : Canvas) : plotRow b x0 y c = plotPixels c (pixelsOfRow b x0 y) := by
  simp only [plotRow, plotPixels, pixelsOfRow, List.foldl_map, List.foldl_filter]

theorem plotSprite_eq (bs : List Byte) (x0 y : Nat) (c : Canvas) :
    plotSprite bs x0 y c = plotPixels c (pixelsOfSprite bs x0 y) := by
  induction bs generalizing y c with
  | nil => rfl
  | cons b bs ih =>
    rw [plotSprite, ih, plotRow_eq, pixelsOfSprite, plotPixels, plotPixels, plotPixels, List.foldl_append]

theorem mem_pixelsOfRow {b : Byte} {x0 y : Nat} {p : Fin 64 × Fin 32} :
    p ∈ pixelsOfRow b x0 y ↔ ∃ col, col < 8 ∧ spriteBit b col = true ∧ wrapX (x0 + col) = p.1 ∧ wrapY y = p.2 := by
  simp [pixelsOfRow, Prod.ext_iff, and_assoc]

theorem mem_pixelsOfSprite {bs : List Byte} {x0 y : Nat} {p : Fin 64 × Fin 32} :
    p ∈ pixelsOfSprite bs x0 y ↔ ∃ row, ∃ h : row < bs.length, ∃ col, col < 8 ∧ spriteBit bs[row] col = true ∧
      wrapX (x0 + col) = p.1 ∧ wrapY (y + row) = p.2 := by
  induction bs generalizing y with
  | nil => simp [pixelsOfSprite]
  | cons b bs ih =>
    rw [pixelsOfSprite, List.mem_append, mem_pixelsOfRow, ih]
    constructor
    · rintro (⟨col, h⟩ | ⟨row, hr, h⟩)
      · exact ⟨0, by simp, col, h⟩
      · refine ⟨row + 1, by simpa using hr, ?_⟩
        simpa only [List.getElem_cons_succ, show y + (row + 1) = y + 1 + row by omega] using h
    · rintro ⟨row, hr, h⟩
      cases row with
      | zero => exact .inl h
      | succ row =>
        refine .inr ⟨row, by simpa using hr, ?_⟩
        simpa only [List.getElem_cons_succ, show y + (row + 1) = y + 1 + row by omega] using h

/-- Eight neighbouring columns are eight different pixels, wrap or no wrap. -/
theorem pixelsOfRow_nodup (b : Byte) (x0 y : Nat) : (pixelsOfRow b x0 y).Nodup := by
  refine List.Nodup.map_on ?_ (List.nodup_range.filter _)
  intro c hc d hd e
  have hc' : c < 8 := by simpa using (List.mem_filter.mp hc).1
  have hd' : d < 8 := by simpa using (List.mem_filter.mp hd).1
  have : (x0 + c) % 64 = (x0 + d) % 64 := congrArg (fun p => p.1.val) e
  omega

/-- A sprite of at most 32 rows draws no pixel twice. -/
theorem pixelsOfSprite_nodup (bs : List Byte) (x0 y : Nat) (h : bs.length ≤ 32) : (pixelsOfSprite bs x0 y).Nodup := by
  induction bs generalizing y with
  | nil => simp [pixelsOfSprite]
  | cons b bs ih =>
    simp only [List.length_cons] at h
    rw [pixelsOfSprite, List.nodup_append]
    refine ⟨pixelsOfRow_nodup b x0 y, ih (y + 1) (by omega), ?_⟩
    rintro p hp q hq rfl
    obtain ⟨_, -, -, -, h1⟩ := mem_pixelsOfRow.mp hp
    obtain ⟨row, hr, _, -, -, -, h2⟩ := mem_pixelsOfSprite.mp hq
    have : y % 32 = (y + 1 + row) % 32 := congrArg Fin.val (h1.trans h2.symm)
    omega

/-- All that drawing different pixels can do: each of them flips, no other cell changes, and the collision is whether one of
them was set before. -/
theorem plotPixels_spec (ps : List (Fin 64 × Fin 32)) (c : Canvas) (h : ps.Nodup) :
    (∀ px py, Framebuffer.cell (plotPixels c ps).1 px py =
      if (px, py) ∈ ps then !(Framebuffer.cell c.1 px py) else Framebuffer.cell c.1 px py) ∧
    ((plotPixels c ps).2 = true ↔ c.2 = true ∨ ∃ p ∈ ps, Framebuffer.cell c.1 p.1 p.2 = true) := by
  induction ps generalizing c with
  | nil => simp [plotPixels]
  | cons p ps ih =>
    obtain ⟨hp, hps⟩ := List.nodup_cons.mp h
    obtain ⟨ih1, ih2⟩ := ih (plotPixel c p.1 p.2) hps
    have hstep : plotPixels c (p :: ps) = plotPixels (plotPixel c p.1 p.2) ps := rfl
    have hcell : ∀ px py, Framebuffer.cell (plotPixel c p.1 p.2).1 px py =
        if (px, py) = p then !(Framebuffer.cell c.1 px py) else Framebuffer.cell c.1 px py := by
      intro px py
      rw [plotPixel, cell_flip]
      by_cases e : (px, py) = p
      · subst e; simp
      · rw [if_neg e, if_neg fun e' => e (Prod.ext e'.1 e'.2)]
    rw [hstep]
    constructor
    · intro px py
      rw [ih1, hcell]
      by_cases e : (px, py) = p
      · rw [if_neg (by rw [e]; exact hp), if_pos e, if_pos (by simp [e])]
      · rw [if_neg e]; simp [e]
    · rw [ih2]
      have hother : ∀ q ∈ ps, Framebuffer.cell (plotPixel c p.1 p.2).1 q.1 q.2 = Framebuffer.cell c.1 q.1 q.2 := by
        intro q hq
        rw [hcell, if_neg fun e : q = p => hp (e ▸ hq)]
      constructor
      · rintro (h | ⟨q, hq, h⟩)
        · rcases (Bool.or_eq_true _ _).mp h with h | h
          · exact .inl h
          · exact .inr ⟨p, by simp, h⟩
        · exact .inr ⟨q, by simp [hq], (hother q hq) ▸ h⟩
      · rintro (h | ⟨q, hq, h⟩)
        · exact .inl (by simp [plotPixel, h])
        · rcases List.mem_cons.mp hq with e | hq
          · exact .inl (by simp [plotPixel, ← e, h])
          · exact .inr ⟨q, hq, (hother q hq).symm ▸ h⟩

/-- All that drawing a sprite can do (R68): the pixels its set bits fall on flip, no other cell changes, and the collision is
whether one of them was set before. -/
theorem plotSprite_spec (bs : List Byte) (x0 y : Nat) (fb : Framebuffer) (h : bs.length ≤ 32) :
    (∀ px py, Framebuffer.cell (plotSprite bs x0 y (fb, false)).1 px py =
      if (px, py) ∈ pixelsOfSprite bs x0 y then !(Framebuffer.cell fb px py) else Framebuffer.cell fb px py) ∧
    ((plotSprite bs x0 y (fb, false)).2 = true ↔
      ∃ p ∈ pixelsOfSprite bs x0 y, Framebuffer.cell fb p.1 p.2 = true) := by
  rw [plotSprite_eq]
  simpa using plotPixels_spec _ (fb, false) (pixelsOfSprite_nodup bs x0 y h)

end Sys2Proof.Machine
end

