-- ==== Sys2Proof/Tests/Slice0.lean ====
section
/-! SUPPORT. The model's own tests. Every expected value is from spec/95_test_vectors.md (its vector is named in the comment)
or from the example of the instruction's rule. The witnesses show that the hypotheses of each statement can be met. -/

namespace Sys2Proof.Tests

open Sys2Proof.Machine

/-! ## Helpers -/

/-- The start state of the test vectors: the state after Reset with `TICK_DIVIDER = 10`. -/
def base : State := State.resetWith ⟨10, defaultFont⟩

/-- A component of the next state, if the outcome is one. -/
def look {α : Type} (f : State → α) : Host.Outcome State Fault Refusal → Option α
  | .next s => some (f s)
  | .fault _ => none
  | .refused _ => none

/-- One step with the word placed at `pc`. -/
def stepOn {α : Type} (s : State) (w : Word) (f : State → α) : Option α := look f (step (s.placeWord w))

/-- Preset registers. -/
def withRegs (s : State) (rs : List (Nibble × Byte)) : State := rs.foldl (fun s r => s.setReg r.1 r.2) s

/-- Preset memory bytes from an address on. -/
def withBytes (s : State) (a : Nat) (bs : List Byte) : State :=
  { s with mem := Memory.writeBytes s.params.font s.mem a bs }

/-- The bytes of memory from an address on. -/
def bytesAt (s : State) (a n : Nat) : List Byte := (List.range n).map fun k => s.readByte (a + k)

/-- The set pixels of a row, by column. -/
def rowPixels (s : State) (y : Fin 32) : List Nat := (List.range 64).filter fun x => s.fb.cell (wrapX x) y

/-- A state after `raise Fatal`. -/
def fatalAt (c : Cause) (info : Word) : Option FaultRecord := some ⟨c, info⟩

/-! ## Words: the well-formedness check refuses an ill-formed word of every class that has one (R52) -/

theorem test_illformed_class0 : wellFormedWord 0x0000 = false ∧ wellFormedWord 0x0EFD = false := by decide
theorem test_illformed_class0_near : wellFormedWord 0x00F0 = false ∧ wellFormedWord 0x01E0 = false := by decide
theorem test_illformed_class5 : wellFormedWord 0x5011 = false ∧ wellFormedWord 0x5010 = true := by decide
theorem test_illformed_class8 : wellFormedWord 0x8008 = false ∧ wellFormedWord 0x812F = false := by decide
theorem test_illformed_class9 : wellFormedWord 0x9AB1 = false := by decide
theorem test_illformed_classE : wellFormedWord 0xE000 = false ∧ wellFormedWord 0xE19F = false := by decide
theorem test_illformed_classF : wellFormedWord 0xF166 = false ∧ wellFormedWord 0xFFFF = false := by decide
theorem test_opcodeMap_has_34_rows : opcodeMap.length = 34 := by decide

/-! ## Decoding: the words of spec/95_test_vectors.md section 2, one per constructor, and back -/

theorem test_decode_cls : decode 0x00E0 = .ok .cls ∧ encode .cls = 0x00E0 := by decide
theorem test_decode_ret : decode 0x00EE = .ok .ret ∧ encode .ret = 0x00EE := by decide
theorem test_decode_jp : decode 0x1204 = .ok (.jp 0x204) ∧ encode (.jp 0x204) = 0x1204 := by decide
theorem test_decode_call : decode 0x2ABC = .ok (.call 0xABC) ∧ encode (.call 0xABC) = 0x2ABC := by decide
theorem test_decode_seImm : decode 0x3B7F = .ok (.seImm 0xB 0x7F) ∧ encode (.seImm 0xB 0x7F) = 0x3B7F := by decide
theorem test_decode_sneImm : decode 0x4110 = .ok (.sneImm 1 0x10) ∧ encode (.sneImm 1 0x10) = 0x4110 := by decide
theorem test_decode_seReg : decode 0x5230 = .ok (.seReg 2 3) ∧ encode (.seReg 2 3) = 0x5230 := by decide
theorem test_decode_ldImm : decode 0x6FAB = .ok (.ldImm 0xF 0xAB) ∧ encode (.ldImm 0xF 0xAB) = 0x6FAB := by decide
theorem test_decode_addImm : decode 0x70FF = .ok (.addImm 0 0xFF) ∧ encode (.addImm 0 0xFF) = 0x70FF := by decide
theorem test_decode_ldReg : decode 0x8AB0 = .ok (.ldReg 0xA 0xB) ∧ encode (.ldReg 0xA 0xB) = 0x8AB0 := by decide
theorem test_decode_orReg : decode 0x8121 = .ok (.orReg 1 2) ∧ encode (.orReg 1 2) = 0x8121 := by decide
theorem test_decode_andReg : decode 0x8122 = .ok (.andReg 1 2) ∧ encode (.andReg 1 2) = 0x8122 := by decide
theorem test_decode_xorReg : decode 0x8123 = .ok (.xorReg 1 2) ∧ encode (.xorReg 1 2) = 0x8123 := by decide
theorem test_decode_addReg : decode 0x8014 = .ok (.addReg 0 1) ∧ encode (.addReg 0 1) = 0x8014 := by decide
theorem test_decode_subReg : decode 0x8015 = .ok (.subReg 0 1) ∧ encode (.subReg 0 1) = 0x8015 := by decide
theorem test_decode_shr : decode 0x8016 = .ok (.shr 0 1) ∧ encode (.shr 0 1) = 0x8016 := by decide
theorem test_decode_subnReg : decode 0x8017 = .ok (.subnReg 0 1) ∧ encode (.subnReg 0 1) = 0x8017 := by decide
theorem test_decode_shl : decode 0x801E = .ok (.shl 0 1) ∧ encode (.shl 0 1) = 0x801E := by decide
theorem test_decode_sneReg : decode 0x9230 = .ok (.sneReg 2 3) ∧ encode (.sneReg 2 3) = 0x9230 := by decide
theorem test_decode_ldI : decode 0xA22A = .ok (.ldI 0x22A) ∧ encode (.ldI 0x22A) = 0xA22A := by decide
theorem test_decode_jpV0 : decode 0xB210 = .ok (.jpV0 0x210) ∧ encode (.jpV0 0x210) = 0xB210 := by decide
theorem test_decode_rnd : decode 0xC30F = .ok (.rnd 3 0x0F) ∧ encode (.rnd 3 0x0F) = 0xC30F := by decide
theorem test_decode_drw : decode 0xD015 = .ok (.drw 0 1 5) ∧ encode (.drw 0 1 5) = 0xD015 := by decide
theorem test_decode_skp : decode 0xE19E = .ok (.skp 1) ∧ encode (.skp 1) = 0xE19E := by decide
theorem test_decode_sknp : decode 0xE1A1 = .ok (.sknp 1) ∧ encode (.sknp 1) = 0xE1A1 := by decide
theorem test_decode_ldVxDt : decode 0xF207 = .ok (.ldVxDt 2) ∧ encode (.ldVxDt 2) = 0xF207 := by decide
theorem test_decode_ldVxK : decode 0xF10A = .ok (.ldVxK 1) ∧ encode (.ldVxK 1) = 0xF10A := by decide
theorem test_decode_ldDtVx : decode 0xF015 = .ok (.ldDtVx 0) ∧ encode (.ldDtVx 0) = 0xF015 := by decide
theorem test_decode_ldStVx : decode 0xF018 = .ok (.ldStVx 0) ∧ encode (.ldStVx 0) = 0xF018 := by decide
theorem test_decode_addI : decode 0xF11E = .ok (.addI 1) ∧ encode (.addI 1) = 0xF11E := by decide
theorem test_decode_ldF : decode 0xF229 = .ok (.ldF 2) ∧ encode (.ldF 2) = 0xF229 := by decide
theorem test_decode_ldB : decode 0xF133 = .ok (.ldB 1) ∧ encode (.ldB 1) = 0xF133 := by decide
theorem test_decode_storeRegs : decode 0xF155 = .ok (.storeRegs 1) ∧ encode (.storeRegs 1) = 0xF155 := by decide
theorem test_decode_loadRegs : decode 0xF265 = .ok (.loadRegs 2) ∧ encode (.loadRegs 2) = 0xF265 := by decide

theorem test_decode_rejects_by_name : decode 0x0EFD = .error (.unrecognised 0x0EFD) := by decide
theorem test_decodeBytes_truncated : decodeBytes [0x60] = .error .truncated := by decide
theorem test_decodeBytes_rest : decodeBytes [0x60, 0xFF, 0x80] = .ok (.ldImm 0 0xFF, [0x80]) := by decide
theorem test_decodeTableWord : decodeTableWord 16 0xD015 = some (.drw 0 1 5) := by decide

/-! ## Display (section 3) -/

/-- D1 -/
theorem test_cls : stepOn { base with fb := Framebuffer.flip base.fb 5 3 } 0x00E0
    (fun s => (rowPixels s 3, s.pc, s.events == [.render Framebuffer.clear])) = some ([], 0x202, true) := by decide
/-- D3: wrap on both axes -/
theorem test_drw_wraps : stepOn { withBytes (withRegs base [(0, 62), (1, 31)]) 0x300 [0xFF, 0x81] with I := 0x300 } 0xD012
    (fun s => (rowPixels s 31, rowPixels s 0, s.reg 0xF, s.pc)) =
    some ([0, 1, 2, 3, 4, 5, 62, 63], [5, 62], 0, 0x202) := by decide
/-- D9: collision, and a zero bit leaves its pixel alone -/
theorem test_drw_collision :
    stepOn { withBytes base 0x300 [0xF0] with I := 0x300, fb := Framebuffer.flip (Framebuffer.flip base.fb 3 0) 4 0 } 0xD011
    (fun s => (rowPixels s 0, s.reg 0xF)) = some ([0, 1, 2, 4], 1) := by decide
/-- D8: with `X = F` the coordinate is the old VF -/
theorem test_drw_old_vf : stepOn { withBytes (withRegs base [(0xF, 3)]) 0x300 [0x80] with I := 0x300 } 0xDF01
    (fun s => (rowPixels s 0, s.reg 0xF)) = some ([3], 0) := by decide
/-- D2: no row, no memory read, no fault -/
theorem test_drw_no_rows : stepOn { withRegs base [(0xF, 1)] with I := 0xFFFF } 0xD010
    (fun s => (s.fault, s.reg 0xF, s.events.length, s.pc)) = some (none, 0, 1, 0x202) := by decide
/-- D6: out of range, nothing changes, no tick -/
theorem test_drw_out_of_range : stepOn { base with I := 4094 } 0xD013
    (fun s => (s.fault, s.pc, s.div, s.draw, s.events.length)) = some (fatalAt .memOob 4096, 0x200, 10, false, 1) := by decide

/-! ## Control transfer (section 4) -/

/-- C1 -/
theorem test_jp : stepOn { base with pc := 0x20A } 0x1204 (·.pc) = some 0x204 := by decide
/-- C2 -/
theorem test_call : stepOn { base with pc := 0x206 } 0x2210 (fun s => (s.pc, s.sp, s.stack[0])) = some (0x210, 1, 0x208) := by
  decide
/-- C6 -/
theorem test_call_overflow : stepOn { base with pc := 0x300, sp := 16 } 0x2ABC (fun s => (s.fault, s.pc, s.sp, s.div)) =
    some (fatalAt .stackOverflow 0x300, 0x300, 16, 10) := by decide
/-- C3 -/
theorem test_ret : stepOn { base with pc := 0x214, sp := 1, stack := base.stack.set 0 0x208 } 0x00EE
    (fun s => (s.pc, s.sp, s.stack[0])) = some (0x208, 0, 0x208) := by decide
/-- C7 -/
theorem test_ret_underflow : stepOn { base with pc := 0x300 } 0x00EE (fun s => (s.fault, s.pc)) =
    some (fatalAt .stackUnderflow 0x300, 0x300) := by decide
/-- C8 -/
theorem test_jpV0_does_not_wrap : stepOn (withRegs base [(0, 0xFF)]) 0xBFFF (fun s => (s.pc, s.fault)) =
    some (0x10FE, none) := by decide
/-- C9, second step: the second byte of the fetch is outside -/
theorem test_fetch_at_4095 : look (fun s => (s.fault, s.pc, s.div)) (step { base with pc := 0xFFF }) =
    some (fatalAt .memOob 4096, 0xFFF, 10) := by decide
/-- C8, second step -/
theorem test_fetch_above_4095 : look (fun s => s.fault) (step { base with pc := 0x10FE }) = some (fatalAt .memOob 0x10FE) := by
  decide

/-! ## Skips and keys (section 5) -/

/-- Q1, Q2 -/
theorem test_seImm : stepOn base 0x3000 (·.pc) = some 0x204 ∧ stepOn (withRegs base [(0, 4)]) 0x3000 (·.pc) = some 0x202 := by
  decide
/-- Q3, Q4 -/
theorem test_sneImm : stepOn (withRegs base [(1, 0x0F)]) 0x410F (·.pc) = some 0x202 ∧
    stepOn (withRegs base [(1, 0x0F)]) 0x4110 (·.pc) = some 0x204 := by decide
/-- Q5, Q6 -/
theorem test_seReg : stepOn (withRegs base [(2, 7), (3, 7)]) 0x5230 (·.pc) = some 0x204 ∧
    stepOn (withRegs base [(2, 7), (3, 8)]) 0x5230 (·.pc) = some 0x202 := by decide
/-- Q8, Q9 -/
theorem test_sneReg : stepOn (withRegs base [(2, 7), (3, 8)]) 0x9230 (·.pc) = some 0x204 ∧
    stepOn (withRegs base [(2, 7), (3, 7)]) 0x9230 (·.pc) = some 0x202 := by decide
/-- Q12, Q13 -/
theorem test_skp : stepOn { withRegs base [(1, 5)] with key := 0x20 } 0xE19E (·.pc) = some 0x204 ∧
    stepOn { withRegs base [(1, 6)] with key := 0x20 } 0xE19E (·.pc) = some 0x202 := by decide
/-- Q17 -/
theorem test_skp_key_out_of_range : stepOn (withRegs base [(0, 0x10)]) 0xE09E (fun s => (s.fault, s.pc, s.div)) =
    some (fatalAt .keyOob 0x10, 0x200, 10) := by decide
/-- Q14, Q15 -/
theorem test_sknp : stepOn { withRegs base [(1, 5)] with key := 0x20 } 0xE1A1 (·.pc) = some 0x202 ∧
    stepOn { withRegs base [(1, 6)] with key := 0x20 } 0xE1A1 (·.pc) = some 0x204 := by decide
/-- Q18 -/
theorem test_sknp_key_out_of_range : stepOn (withRegs base [(0, 0xFF)]) 0xE0A1 (·.fault) = some (fatalAt .keyOob 0xFF) := by
  decide

/-! ## Arithmetic and logic (section 6) -/

/-- A2: VF as a plain destination -/
theorem test_ldImm : stepOn base 0x6FAB (fun s => (s.reg 0xF, s.pc, s.div)) = some (0xAB, 0x202, 9) := by decide
/-- A4, A5: no carry flag -/
theorem test_addImm : stepOn (withRegs base [(0, 0xFF)]) 0x7002 (fun s => (s.reg 0, s.reg 0xF)) = some (0x01, 0) ∧
    stepOn (withRegs base [(0xF, 0xFF)]) 0x7F01 (·.reg 0xF) = some 0 := by decide
/-- A6 -/
theorem test_ldReg : stepOn (withRegs base [(0xF, 1)]) 0x83F0 (·.reg 3) = some 1 := by decide
/-- A7: VF unchanged; A11 -/
theorem test_orReg : stepOn (withRegs base [(1, 0x0F), (2, 0xF0), (0xF, 1)]) 0x8121 (fun s => (s.reg 1, s.reg 0xF)) =
    some (0xFF, 1) ∧ stepOn (withRegs base [(0xF, 1), (1, 2)]) 0x8F11 (·.reg 0xF) = some 3 := by decide
/-- A8 -/
theorem test_andReg : stepOn (withRegs base [(1, 0x3C), (2, 0x0F)]) 0x8122 (·.reg 1) = some 0x0C := by decide
/-- A9, A10 -/
theorem test_xorReg : stepOn (withRegs base [(1, 0xFF), (2, 0x0F)]) 0x8123 (·.reg 1) = some 0xF0 ∧
    stepOn (withRegs base [(1, 0x5A)]) 0x8113 (·.reg 1) = some 0 := by decide
/-- The table of section 6: sums 255 and 256 -/
theorem test_addReg_carry : stepOn (withRegs base [(0, 0x80), (1, 0x80)]) 0x8014 (fun s => (s.reg 0, s.reg 0xF)) = some (0, 1) ∧
    stepOn (withRegs base [(0, 0x7F), (1, 0x80)]) 0x8014 (fun s => (s.reg 0, s.reg 0xF)) = some (0xFF, 0) := by decide
/-- F1, F3: VF as destination and as operand -/
theorem test_addReg_vf : stepOn (withRegs base [(0xF, 0xFF), (1, 1)]) 0x8F14 (·.reg 0xF) = some 1 ∧
    stepOn (withRegs base [(0, 1), (0xF, 0xFF)]) 0x80F4 (fun s => (s.reg 0, s.reg 0xF)) = some (0, 1) := by decide
/-- The table of section 6: borrow, and equal operands -/
theorem test_subReg : stepOn (withRegs base [(0, 0x10), (1, 0x20)]) 0x8015 (fun s => (s.reg 0, s.reg 0xF)) = some (0xF0, 0) ∧
    stepOn (withRegs base [(0, 5), (1, 5)]) 0x8015 (fun s => (s.reg 0, s.reg 0xF)) = some (0, 1) := by decide
/-- The table of shifts: `V1` is ignored -/
theorem test_shr : stepOn (withRegs base [(0, 0x81), (1, 0x55)]) 0x8016 (fun s => (s.reg 0, s.reg 1, s.reg 0xF)) =
    some (0x40, 0x55, 1) := by decide
/-- F8: the evicted bit stays in VF -/
theorem test_shr_vf : stepOn (withRegs base [(0xF, 3)]) 0x8FF6 (·.reg 0xF) = some 1 := by decide
/-- The table of section 6; F7 -/
theorem test_subnReg : stepOn (withRegs base [(0, 0x10), (1, 0x20)]) 0x8017 (fun s => (s.reg 0, s.reg 0xF)) = some (0x10, 1) ∧
    stepOn (withRegs base [(0xF, 9), (1, 3)]) 0x8F17 (·.reg 0xF) = some 0 := by decide
/-- The table of shifts -/
theorem test_shl : stepOn (withRegs base [(0, 0x81), (1, 0x55)]) 0x801E (fun s => (s.reg 0, s.reg 1, s.reg 0xF)) =
    some (0x02, 0x55, 1) := by decide
/-- F11 -/
theorem test_shl_vf : stepOn (withRegs base [(0xF, 0x40)]) 0x8FFE (·.reg 0xF) = some 0 := by decide
/-- A14 -/
theorem test_rnd : stepOn { base with rnd := 0xA7 } 0xC30F (fun s => (s.reg 3, s.pc)) = some (0x07, 0x202) := by decide

/-! ## Index register and memory (section 7) -/

/-- M1 -/
theorem test_ldI : stepOn base 0xA22A (fun s => (s.I, s.pc)) = some (0x22A, 0x202) := by decide
/-- M2, M3 -/
theorem test_addI : stepOn { withRegs base [(1, 5)] with I := 0x0FFE } 0xF11E (fun s => (s.I, s.reg 0xF, s.fault)) =
    some (0x1003, 0, none) ∧ stepOn { withRegs base [(1, 1)] with I := 0xFFFF } 0xF11E (·.I) = some 0 := by decide
/-- M5 -/
theorem test_ldF : stepOn (withRegs base [(0, 0x0F)]) 0xF029 (·.I) = some 0x4B ∧
    stepOn (withRegs base [(0, 0xFF)]) 0xF029 (·.I) = some 0x4FB := by decide
/-- M7: the last legal position -/
theorem test_ldB : stepOn { withRegs base [(1, 255)] with I := 4093 } 0xF133 (fun s => (bytesAt s 4093 3, s.I)) =
    some ([2, 5, 5], 4093) := by decide
/-- M8: nothing written -/
theorem test_ldB_out_of_range : stepOn { withBytes (withRegs base [(1, 255)]) 4094 [0xAA, 0xBB] with I := 4094 } 0xF133
    (fun s => (s.fault, bytesAt s 4094 2, s.pc, s.div)) = some (fatalAt .memOob 4096, [0xAA, 0xBB], 0x200, 10) := by decide
/-- M9: only V0 -/
theorem test_storeRegs : stepOn { withBytes (withRegs base [(0, 0x11), (1, 0x22)]) 0x301 [0x77] with I := 0x300 } 0xF055
    (fun s => (bytesAt s 0x300 2, s.I)) = some ([0x11, 0x77], 0x300) := by decide
/-- M11, M12 -/
theorem test_storeRegs_out_of_range : stepOn { base with I := 4081 } 0xFF55 (·.fault) = some (fatalAt .memOob 4096) ∧
    stepOn { base with I := 0xFFFF } 0xF055 (·.fault) = some (fatalAt .memOob 0xFFFF) := by decide
/-- M15, and no register beyond VX -/
theorem test_loadRegs : stepOn { withBytes (withRegs base [(0, 9), (3, 8)]) 0x300 [0, 1, 5] with I := 0x300 } 0xF265
    (fun s => (s.reg 0, s.reg 1, s.reg 2, s.reg 3)) = some (0, 1, 5, 8) := by decide
/-- M14 -/
theorem test_loadRegs_out_of_range : stepOn { withRegs base [(0, 9)] with I := 4094 } 0xF265 (fun s => (s.fault, s.reg 0)) =
    some (fatalAt .memOob 4096, 9) := by decide
/-- P6: code stored is the code fetched -/
theorem test_self_modifying : (match (withBytes { base with pc := 0x208 } 0x208 [0x62, 0x99]).fetch with
    | .ok w => decode w
    | .error _ => .error .truncated) = .ok (.ldImm 2 0x99) := by decide
/-- The font lies at 0x000 (R28), and is ordinary memory -/
theorem test_font : bytesAt base 0x23 5 = [0xF0, 0x10, 0x20, 0x40, 0x40] ∧ base.readByte 0x50 = 0 := by decide
theorem test_font_is_writable : (withBytes base 0 [0]).readByte 0 = 0 ∧ (withBytes (withBytes base 0 [0]) 0 [0xF0]).mem = [] := by
  decide

/-! ## Timers, key wait, host operations (section 8), LoadProgram (section 9) -/

theorem test_ldVxDt : stepOn { base with dt := 0x2A } 0xF207 (·.reg 2) = some 0x2A := by decide
/-- R110, and its corner case: the tick of the same step -/
theorem test_ldDtVx : stepOn (withRegs base [(0, 3)]) 0xF015 (·.dt) = some 3 ∧
    stepOn { withRegs base [(0, 3)] with div := 1 } 0xF015 (fun s => (s.dt, s.div)) = some (2, 10) := by decide
/-- T3: the beep of the same step -/
theorem test_ldStVx : stepOn { withRegs base [(0, 1)] with div := 1 } 0xF018 (fun s => (s.st, s.events == [.beep])) =
    some (0, true) := by decide
/-- K1, first step -/
theorem test_ldVxK : stepOn base 0xFF0A (fun s => (s.waitActive, s.waitReg, s.pc, s.div)) = some (true, 0xF, 0x202, 9) := by
  decide
/-- K1, second step: only the divider -/
theorem test_awaiting_step : look (fun s => (s.pc, s.div, s.waitActive)) (step { base with waitActive := true, pc := 0x202 }) =
    some (0x202, 9, true) := by decide
/-- P5: keys 5 and 8 down, the lowest wins -/
theorem test_applyInput : (fun s => (s.reg 1, s.waitActive, s.key, s.pc, s.div))
    (applyInput 0x0120 { base with waitActive := true, waitReg := 1 }) = (5, false, 0x0120, 0x200, 10) := by decide
/-- K1, (d) of R112: no key down, the wait goes on -/
theorem test_applyInput_no_key : (fun s => (s.waitActive, s.key))
    (applyInput 0 { base with waitActive := true, key := 0xFF }) = (true, 0) := by decide
/-- Section 2: an unrecognised word -/
theorem test_decode_fault : stepOn base 0x01E0 (fun s => (s.events == [.decodeFault 0x01E0 0x200], s.pc, s.div, s.fault)) =
    some (true, 0x202, 9, none) := by decide
/-- H1: nothing happens in state Faulted -/
theorem test_faulted : look (fun s => (s.div, s.pc, s.events.length)) (step (base.raiseFatal .stackUnderflow 0x200)) =
    some (10, 0x200, 1) ∧ (applyInput 0xFFFF (base.raiseFatal .stackUnderflow 0x200)).key = 0 := by decide
/-- H1: Reset leaves state Faulted and erases the program -/
theorem test_hostReset : (fun s => (s.fault, bytesAt s 0x200 2, s.events.length))
    (hostReset (loadProgram [0x60, 0x01] base |>.raiseFatal .stackUnderflow 0x200)) = (none, [0, 0], 0) := by decide
/-- L4: the old tail and the old sentinel remain -/
theorem test_loadProgram : bytesAt (loadProgram [0x6A, 0x0A] (loadProgram [0x60, 1, 0x61, 2, 0x62, 3] base)) 0x200 8 =
    [0x6A, 0x0A, 0x0E, 0xFD, 0x62, 3, 0x0E, 0xFD] := by decide
/-- L2: the empty program; the first step reports the sentinel -/
theorem test_loadProgram_empty : look (fun s => (s.events == [.decodeFault 0x0EFD 0x200], s.pc)) (step (loadProgram [] base)) =
    some (true, 0x202) := by decide
/-- R66: the sentinel's report ends a run and does not mark it as gone wrong, any other report does -/
theorem test_end_of_run : EndOfRun (loadProgram [] base)
      { loadProgram [] base with pc := 0x202, div := 9, events := [.decodeFault 0x0EFD 0x200] } 0x200 ∧
    (Event.decodeFault 0x0EFD 0x200).goneWrong = false ∧ (Event.decodeFault 0x0000 0x200).goneWrong = true :=
  ⟨⟨fun ⟨_, h⟩ => (List.not_mem_nil h).elim, rfl, by decide⟩, rfl, rfl⟩
/-- R66: only the first report of the sentinel ends the run -/
theorem test_end_of_run_is_the_first (t : State) (a : Word) :
    ¬ EndOfRun { loadProgram [] base with events := [.decodeFault 0x0EFD 0x300] } t a :=
  fun h => h.1 ⟨0x300, List.mem_singleton.mpr rfl⟩
/-- The first step after Reset of a program placed at `pc`, from the state with the open parameters -/
theorem test_first_instruction_after_reset : look (fun s => (s.reg 0, s.pc)) (step (State.reset.withFetchWord 16 0x60FF)) =
    some (0xFF, 0x202) := by decide
theorem test_cause_codes : [Cause.stackOverflow, .stackUnderflow, .memOob, .keyOob].map causeCode = [1, 2, 3, 4] ∧
    decodeFaultCode = 0 := by decide
/-- R26: row-major -/
theorem test_render_payload : (Framebuffer.payload (Framebuffer.flip base.fb 5 3))[3 * 64 + 5]? = some true := by decide

/-! ## Witnesses: for each statement of Certificates/Slice0/Obligations.lean with hypotheses, states and operands that meet
them, at the boundaries of each clause -/

/-- A state with `pc`, the index register and some registers set. -/
def at' (pc I : Word) (rs : List (Nibble × Byte)) : State := { withRegs base rs with pc := pc, I := I }

theorem witness_EncodeUndoesDecode : decode 0x00E0 = .ok .cls ∧ decode 0x8FFE = .ok (.shl 0xF 0xF) := by decide
theorem witness_DecodeFollowsOpcodeMap : decode 0xFF65 = .ok (.loadRegs 0xF) ∧ wellFormedWord 0xFF65 = true := by decide
theorem witness_OpcodeRowsAreDisjoint : ∃ r ∈ opcodeMap, r.selects 0x8FFE = true := by decide
/-- Every class of R52, at the edges of its range -/
theorem witness_UnrecognisedWordsByClass : ([0x0000, 0x00E1, 0x0FFF, 0x5001, 0x8008, 0x8FFD, 0x9FFF, 0xEF9F, 0xFF64].all
    fun w => decide (decode w = .error (.unrecognised w))) = true := by decide

theorem witness_FetchIsBigEndian : (at' 4094 0 []).pc.toNat ≤ 4094 ∧ 4094 < (at' 4095 0 []).pc.toNat := by decide
/-- 60FF at address 4094 -/
def lastWord : State := withBytes (at' 4094 0 []) 4094 [0x60, 0xFF]
/-- 00EE with an empty stack -/
def emptyReturn : State := withBytes base 0x200 [0x00, 0xEE]
theorem witness_StepRunsDecodedInstruction :
    (lastWord.fault = none ∧ lastWord.waitActive = false ∧ lastWord.pc.toNat ≤ 4094 ∧
      decode (wordOfBytes (lastWord.readByte lastWord.pc.toNat) (lastWord.readByte (lastWord.pc.toNat + 1))) =
        .ok (.ldImm 0 0xFF) ∧
      ∃ t, exec (.ldImm 0 0xFF) { lastWord with draw := false } = .next t ∧ t.fault = none) ∧
    (emptyReturn.fault = none ∧ emptyReturn.waitActive = false ∧ emptyReturn.pc.toNat ≤ 4094 ∧
      decode (wordOfBytes (emptyReturn.readByte emptyReturn.pc.toNat) (emptyReturn.readByte (emptyReturn.pc.toNat + 1))) =
        .ok .ret ∧
      ∃ t f, exec .ret { emptyReturn with draw := false } = .next t ∧ t.fault = some f) :=
  ⟨⟨rfl, rfl, by decide, by decide, _, rfl, rfl⟩, ⟨rfl, rfl, by decide, by decide, _, _, rfl, rfl⟩⟩
theorem witness_DecodeFaultIsReportedAndSurvived : base.fault = none ∧ base.waitActive = false ∧
    ∃ w e, base.fetch = .ok w ∧ decode w = .error e := ⟨rfl, rfl, _, .unrecognised 0, rfl, by decide⟩
theorem witness_FetchOutOfRangeIsFatal : (at' 4095 0 []).fault = none ∧ (at' 4095 0 []).waitActive = false ∧
    4094 < (at' 4095 0 []).pc.toNat ∧ (at' 4096 0 []).fault = none ∧ (at' 4096 0 []).waitActive = false ∧
    4094 < (at' 4096 0 []).pc.toNat := by decide
theorem witness_FaultedMachineIsFrozen : (base.raiseFatal .memOob 4096).fault ≠ none := by decide
theorem witness_AwaitingKeyStepOnlyTicks : { base with waitActive := true }.fault = none ∧
    { base with waitActive := true }.waitActive = true := ⟨rfl, rfl⟩
theorem witness_KeyWaitOutlastsAnySteps : { base with waitActive := true, st := 1 }.fault = none ∧
    { base with waitActive := true, st := 1 }.waitActive = true := ⟨rfl, rfl⟩
/-- A drawing instruction and one that draws nothing -/
theorem witness_RenderFollowsDrawing :
    (∃ s t : State, s.fault = none ∧ s.waitActive = false ∧ s.fetch = .ok 0x00E0 ∧ decode 0x00E0 = .ok .cls ∧
      step s = .next t ∧ t.fault = none) ∧
    (∃ s t : State, s.fault = none ∧ s.waitActive = false ∧ s.fetch = .ok 0x60FF ∧ decode 0x60FF = .ok (.ldImm 0 0xFF) ∧
      step s = .next t ∧ t.fault = none) :=
  ⟨⟨withBytes base 0x200 [0x00, 0xE0], _, rfl, rfl, by rfl, by decide, rfl, rfl⟩,
   ⟨lastWord, _, rfl, rfl, by rfl, by decide, rfl, rfl⟩⟩
theorem witness_TickCountsDown : 2 ≤ { base with div := 2 }.div ∧ { base with div := 1, st := 1 }.div = 1 := by decide
theorem witness_TimersDecayToZero : 1 ≤ base.params.tickDivider ∧ base.div = base.params.tickDivider := by decide
theorem witness_FatalStepIsPrecise : ∃ t f, emptyReturn.fault = none ∧ step emptyReturn = .next t ∧ t.fault = some f :=
  ⟨_, _, rfl, rfl, rfl⟩
/-- Each cause -/
theorem witness_FatalCausesAreTheTables : base.fault = none ∧
    look (·.fault) (exec (.call 0) { base with sp := 16 }) = some (fatalAt .stackOverflow 0x200) ∧
    look (·.fault) (exec .ret base) = some (fatalAt .stackUnderflow 0x200) ∧
    look (·.fault) (exec (.drw 0 0 1) (at' 0x200 4096 [])) = some (fatalAt .memOob 4096) ∧
    look (·.fault) (exec (.ldB 0) (at' 0x200 4094 [])) = some (fatalAt .memOob 4096) ∧
    look (·.fault) (exec (.sknp 0) (at' 0x200 0 [(0, 16)])) = some (fatalAt .keyOob 16) := by decide
theorem witness_StepKeepsInvariant : base.Inv ∧ ∃ t, step base = .next t :=
  ⟨⟨by decide, by decide, by decide, by simp [base, State.resetWith], by simp [base, State.resetWith]⟩, _, rfl⟩
theorem witness_HostOperationsKeepInvariant : base.Inv := witness_StepKeepsInvariant.1
theorem witness_ResetHasInvariant : 1 ≤ (⟨1, defaultFont⟩ : Params).tickDivider := by decide
/-- Each clause: the registers do change in the instructions named -/
theorem witness_SpecialRegistersHaveTheirOwnWriters :
    look (fun s => s.I != 0) (exec (.ldI 1) base) = some true ∧ look (fun s => s.I != 0) (exec (.ldF 0) (at' 0 0 [(0, 1)])) =
      some true ∧
    look (fun s => s.sp != 0 && s.stack != base.stack) (exec (.call 0) base) = some true ∧
    look (fun s => s.sp != 1) (exec .ret { base with sp := 1 }) = some true ∧
    look (fun s => s.dt != 0) (exec (.ldDtVx 0) (at' 0 0 [(0, 1)])) = some true ∧
    look (fun s => s.st != 0) (exec (.ldStVx 0) (at' 0 0 [(0, 1)])) = some true ∧
    look (fun s => s.waitActive) (exec (.ldVxK 0) base) = some true ∧
    look (fun s => s.draw) (exec .cls base) = some true ∧
    look (fun s => s.mem != []) (exec (.storeRegs 0) base) = some true ∧
    look (fun s => s.draws != 0) (exec (.rnd 0 0) base) = some true := by decide
/-- Each clause: a flag writer, with its hypotheses, and an instruction that is neither -/
theorem witness_FlagRegisterHasSixWriters :
    (base.fault = none ∧ ∃ t, exec (.addReg 0xF 0) base = .next t ∧ t.fault = none) ∧ ∃ t, exec (.jp 0) base = .next t :=
  ⟨⟨rfl, _, rfl, rfl⟩, _, rfl⟩
theorem witness_StepLeavesHostSideAlone : ∃ t, step { base with waitActive := true } = .next t ∧ t.waitActive = true :=
  ⟨_, rfl, rfl⟩

/-- `N = 0` with `I` anywhere, and the last sprite that fits -/
theorem witness_DrwDrawsSprite : ((0 : Nibble) = 0 ∨ (at' 0x200 0xFFFF []).I.toNat + (0 : Nibble).toNat ≤ 4096) ∧
    ((15 : Nibble) = 0 ∨ (at' 0x200 4081 []).I.toNat + (15 : Nibble).toNat ≤ 4096) := by decide
/-- A sprite that hits a pixel, and one that collides -/
theorem witness_DrwDrawsSprite_hits : SpriteHits base 0 0 1 0 0 ∧ SpriteCollides { base with fb := Framebuffer.flip base.fb 0 0 } 0 0 1 :=
  ⟨⟨0, by decide, 0, by decide, by decide, rfl, rfl⟩, 0, 0, ⟨0, by decide, 0, by decide, by decide, rfl, rfl⟩, by decide⟩
theorem witness_DrwOutOfRangeIsFatal : ((1 : Nibble) ≠ 0 ∧ 4096 < (at' 0x200 4096 []).I.toNat + (1 : Nibble).toNat) ∧
    ((15 : Nibble) ≠ 0 ∧ 4096 < (at' 0x200 4082 []).I.toNat + (15 : Nibble).toNat) := by decide
theorem witness_DrwTwiceRestoresScreen : (0 : Nibble) ≠ 0xF ∧ (1 : Nibble) ≠ 0xF ∧
    base.I.toNat + (5 : Nibble).toNat ≤ 4096 ∧
    ∃ t u, exec (.drw 0 1 5) base = .next t ∧ exec (.drw 0 1 5) t = .next u :=
  ⟨by decide, by decide, by decide, _, _, rfl, rfl⟩

theorem witness_JumpSetsPc : (0xFFF : Imm12).toNat = 4095 := by decide
theorem witness_CallPushesReturnAddress : base.sp.val < 16 ∧ { base with sp := 15 }.sp.val < 16 := by decide
theorem witness_ReturnPopsIntoPc : 0 < { base with sp := 1 }.sp.val ∧ 0 < { base with sp := 16 }.sp.val := by decide
theorem witness_StackLimitsAreFatal : { base with sp := 16 }.sp.val = 16 ∧ base.sp.val = 0 := by decide
/-- A call, 00E0, and the return -/
theorem witness_BalancedCallsRestoreStack : (∃ t, BalancedRun base t) ∧
    ∃ t u w, exec (.call 0x300) base = .next t ∧ t.fault = none ∧ BalancedRun t u ∧ exec .ret u = .next w ∧ w.fault = none :=
  ⟨⟨_, .nested 0x300 base _ _ _ _ rfl rfl (.plain .cls _ _ _ rfl rfl rfl (.done _)) rfl rfl (.done _)⟩,
   _, _, _, rfl, rfl, .plain .cls _ _ _ rfl rfl rfl (.done _), rfl, rfl⟩

theorem witness_SkipsOnImmediate : base.reg 0 = 0 ∧ base.reg 0 ≠ 0xFF := by decide
theorem witness_SkipsOnRegisters : (withRegs base [(1, 5)]).reg 1 = (withRegs base [(1, 5)]).reg 1 ∧
    (withRegs base [(1, 5)]).reg 1 ≠ (withRegs base [(1, 5)]).reg 2 := by decide
/-- Key 15, pressed and not pressed -/
theorem witness_SkipsOnKey : ((withRegs base [(1, 15)]).reg 1).toNat ≤ 15 ∧
    (withRegs base [(1, 15)]).key.getLsbD ((withRegs base [(1, 15)]).reg 1).toNat = false ∧
    { withRegs base [(1, 15)] with key := 0x8000 }.key.getLsbD ((withRegs base [(1, 15)]).reg 1).toNat = true := by decide
theorem witness_KeyNumberOutOfRangeIsFatal : 15 < ((withRegs base [(1, 16)]).reg 1).toNat := by decide
/-- 255 is no carry, 256 is one -/
theorem witness_AddSetsCarry : (0 : Nibble) ≠ 0xF ∧
    ¬ 255 < ((withRegs base [(0, 0xFF)]).reg 0).toNat + ((withRegs base [(0, 0xFF)]).reg 1).toNat ∧
    255 < ((withRegs base [(0, 0xFF), (1, 1)]).reg 0).toNat + ((withRegs base [(0, 0xFF), (1, 1)]).reg 1).toNat := by decide
/-- Equal operands are no borrow -/
theorem witness_SubtractSetsNoBorrow : (0 : Nibble) ≠ 0xF ∧ (base.reg 1).toNat ≤ (base.reg 0).toNat ∧
    ¬ ((withRegs base [(1, 1)]).reg 1).toNat ≤ ((withRegs base [(1, 1)]).reg 0).toNat := by decide
theorem witness_ShiftsEvictIntoFlag : (0xE : Nibble) ≠ 0xF := by decide

theorem witness_StoredByteReadsBack : (4095 ≤ 4095 ∧ 4095 < 4096) ∧
    (base.storeBytes 4095 [1]).toOption.isSome = true ∧ (base.storeBytes 4096 [1]).toOption.isSome = false := by decide
theorem witness_DecimalDigitsAreStored : (at' 0x200 4093 []).I.toNat + 2 ≤ 4095 := by decide
theorem witness_RegistersAreStored : (at' 0x200 4080 []).I.toNat + (15 : Nibble).toNat ≤ 4095 ∧ (15 : Nibble) ≤ 15 := by decide
theorem witness_RegistersAreLoaded : (at' 0x200 4080 []).I.toNat + (15 : Nibble).toNat ≤ 4095 ∧
    (at' 0x200 4081 []).I.toNat + (14 : Nibble).toNat ≤ 4095 ∧ (14 : Nibble) < 15 := by decide
theorem witness_MemoryAccessOutOfRangeIsFatal : 4095 < (at' 0x200 4094 []).I.toNat + 2 ∧
    4095 < (at' 0x200 4081 []).I.toNat + (15 : Nibble).toNat ∧ 4095 < (at' 0x200 4096 []).I.toNat + (0 : Nibble).toNat := by
  decide
theorem witness_StoreThenLoadRestoresRegisters : (at' 0x200 4080 []).I.toNat + (15 : Nibble).toNat ≤ 4095 ∧
    ∃ t u w, exec (.storeRegs 15) (at' 0x200 4080 []) = .next t ∧ u = { t with v := u.v, pc := u.pc } ∧
      exec (.loadRegs 15) u = .next w :=
  ⟨by decide, _, { at' 0x200 4080 [] with pc := 0 }, _, rfl, rfl, rfl⟩
theorem witness_StoredCodeIsFetched : 1 ≤ (1 : Nibble).toNat ∧ (at' 0x200 4094 []).I.toNat + (1 : Nibble).toNat ≤ 4095 ∧
    ∃ t u, exec (.storeRegs 1) (at' 0x200 4094 []) = .next t ∧ u = { t with pc := (at' 0x200 4094 []).I } :=
  ⟨by decide, by decide, _, _, rfl, rfl⟩

/-- No wait; a wait with no key down; a wait released by key 15 alone -/
theorem witness_ApplyInputReleasesWait : base.fault = none ∧ (base.waitActive = false ∨ (0xFFFF : BitVec 16) = 0) ∧
    ({ base with waitActive := true }.waitActive = false ∨ (0 : BitVec 16) = 0) ∧
    ({ base with waitActive := true }.waitActive = true ∧ 15 < 16 ∧ (0x8000 : BitVec 16).getLsbD 15 = true ∧
      ∀ j, j < 15 → (0x8000 : BitVec 16).getLsbD j = false) := by decide
theorem witness_LoadProgramPlacesImage : base.fault = none ∧ (List.replicate 3582 (0xFF : Byte)).length ≤ 3582 ∧
    3582 < (List.replicate 3583 (0xFF : Byte)).length :=
  ⟨rfl, List.length_replicate.le, by rw [List.length_replicate]; decide⟩

end Sys2Proof.Tests
end

/-! PROOFS. What the execute part of an instruction can do to the state, said once for all 34 instructions. -/

namespace Sys2Proof.Machine

/-! ## Footprints of instructions -/

/-- The five class-8 instructions that give VF a flag (spec/10_state.md R14). -/
def IsAluFlagWriter (i : Instr) : Prop :=
  ∃ x y, i = .addReg x y ∨ i = .subReg x y ∨ i = .shr x y ∨ i = .subnReg x y ∨ i = .shl x y

/-- `x` is the one register a plain write of `i` goes to; CXNN and FX65, which do more, are left out. -/
def NamesDestination (i : Instr) (x : Nibble) : Prop :=
  (∃ nn, i = .ldImm x nn ∨ i = .addImm x nn) ∨
  (∃ y, i = .ldReg x y ∨ i = .orReg x y ∨ i = .andReg x y ∨ i = .xorReg x y) ∨ i = .ldVxDt x

/-- `ExecEffect s i t`: the kinds of state `t` that the execute part of `i` can leave, run from `s`. A constructor says which
parts of the state are written, and by which instructions where they are more than `pc` and the latch; every part it does not
mention is as in `s`. -/
inductive ExecEffect (s : State) : Instr → State → Prop where
  /-- a fatal condition, explained by the state it freezes (spec/60_exceptions.md R120) -/
  | fatal (i : Instr) (c : Cause) (info : Word) (hexp : FaultRecord.Explains ⟨c, info⟩ s) :
      ExecEffect s i (s.raiseFatal c info)
  /-- jumps and skips -/
  | transfer (i : Instr) (a : Word) : ExecEffect s i (s.jump a)
  | register (i : Instr) (x : Nibble) (b : Byte) (hi : NamesDestination i x) : ExecEffect s i (s.setReg x b).advance
  | flag (i : Instr) (x : Nibble) (b : Byte) (f : Bool) (hi : IsAluFlagWriter i) :
      ExecEffect s i (s.setResultAndFlag x b f).advance
  | loadRegs (x : Nibble) (bs : List Byte) (hlen : bs.length = regCount x) :
      ExecEffect s (.loadRegs x) { s with v := writeRegs s.v 0 bs }.advance
  | random (x : Nibble) (nn b : Byte) : ExecEffect s (.rnd x nn) (s.setReg x b).nextRandom.advance
  | index (i : Instr) (a : Word) (hi : (∃ nnn, i = .ldI nnn) ∨ ∃ x, i = .addI x ∨ i = .ldF x) :
      ExecEffect s i { s with I := a }.advance
  | ret (p : Fin 17) (a : Word) : ExecEffect s .ret ({ s with sp := p }.jump a)
  | call (nnn : Imm12) (p : Fin 17) (st : Vector Word 16) (a : Word) :
      ExecEffect s (.call nnn) ({ s with stack := st, sp := p }.jump a)
  | delayTimer (x : Nibble) (b : Byte) : ExecEffect s (.ldDtVx x) { s with dt := b }.advance
  | soundTimer (x : Nibble) (b : Byte) : ExecEffect s (.ldStVx x) { s with st := b }.advance
  | keyWait (x : Nibble) : ExecEffect s (.ldVxK x) { s with waitActive := true, waitReg := x }.advance
  | clear (fb : Framebuffer) : ExecEffect s .cls { s with fb := fb, draw := true }.advance
  | draw (x y n : Nibble) (fb : Framebuffer) (f : Bool) :
      ExecEffect s (.drw x y n) ({ s with fb := fb, draw := true }.setFlag f).advance
  | store (i : Instr) (m : Memory) (hi : ∃ x, i = .ldB x ∨ i = .storeRegs x)
      (hwf : Memory.wf s.params.font s.mem = true → Memory.wf s.params.font m = true) :
      ExecEffect s i { s with mem := m }.advance

/-- The datum of a MEM_OOB condition is an address that does not exist (spec/60_exceptions.md R118). -/
theorem memOob_explains (s : State) (a : Word) :
    FaultRecord.Explains ⟨.memOob, BitVec.ofNat 16 (max a.toNat 4096)⟩ s := by
  show 4095 < (BitVec.ofNat 16 (max a.toNat 4096)).toNat
  rw [BitVec.toNat_ofNat]
  omega

theorem zext16_toNat (b : Byte) : (zext16 b).toNat = b.toNat := by
  simp only [zext16, BitVec.truncate_eq_setWidth, BitVec.toNat_setWidth]
  omega

theorem execRet_effect (s : State) : ∃ t, exec .ret s = .next t ∧ ExecEffect s .ret t := by
  rcases pop_cases s with ⟨hempty, hpop⟩ | ⟨_, hpop⟩ <;> simp only [exec, execRet, hpop]
  · exact ⟨_, rfl, .fatal _ .stackUnderflow _ ⟨hempty, rfl⟩⟩
  · exact ⟨_, rfl, .ret _ _⟩

theorem execCall_effect (s : State) (nnn : Imm12) :
    ∃ t, exec (.call nnn) s = .next t ∧ ExecEffect s (.call nnn) t := by
  rcases push_cases s (s.pc + 2) with ⟨hfull, hpush⟩ | ⟨_, hpush⟩ <;> simp only [exec, execCall, hpush]
  · exact ⟨_, rfl, .fatal _ .stackOverflow _ ⟨hfull, rfl⟩⟩
  · exact ⟨_, rfl, .call _ _ _ _⟩

theorem execDrw_effect (s : State) (x y n : Nibble) :
    ∃ t, exec (.drw x y n) s = .next t ∧ ExecEffect s (.drw x y n) t := by
  rcases loadBytes_cases s s.I.toNat n.toNat with ⟨-, -, hload⟩ | ⟨-, hload⟩ <;>
    simp only [exec, execDrw, hload]
  · exact ⟨_, rfl, .fatal _ _ _ (memOob_explains s s.I)⟩
  · exact ⟨_, rfl, .draw _ _ _ _ _⟩

theorem execLoadRegs_effect (s : State) (x : Nibble) :
    ∃ t, exec (.loadRegs x) s = .next t ∧ ExecEffect s (.loadRegs x) t := by
  rcases loadBytes_cases s s.I.toNat (regCount x) with ⟨-, -, hload⟩ | ⟨-, hload⟩ <;>
    simp only [exec, execLoadRegs, hload]
  · exact ⟨_, rfl, .fatal _ _ _ (memOob_explains s s.I)⟩
  · exact ⟨_, rfl, .loadRegs _ _ (by simp)⟩

/-- FX33 and FX55 end alike: in the store of their bytes at `I` (spec/45_index_memory.md R104, R105). -/
theorem exec_store_effect (s : State) (i : Instr) (bs : List Byte) (hi : ∃ x, i = .ldB x ∨ i = .storeRegs x)
    (herr : ∀ bad, s.storeBytes s.I.toNat bs = .error bad → exec i s = .next (s.raiseMemOob bad))
    (hok : ∀ t, s.storeBytes s.I.toNat bs = .ok t → exec i s = .next t.advance) :
    ∃ t, exec i s = .next t ∧ ExecEffect s i t := by
  rcases storeBytes_cases s s.I.toNat bs with ⟨-, -, hstore⟩ | ⟨-, t, hstore, hframe, -, -, hwf⟩
  · exact ⟨_, herr _ hstore, .fatal _ _ _ (memOob_explains s s.I)⟩
  · refine ⟨_, hok t hstore, ?_⟩
    rw [hframe]
    exact .store i t.mem hi hwf

theorem execLdB_effect (s : State) (x : Nibble) : ∃ t, exec (.ldB x) s = .next t ∧ ExecEffect s (.ldB x) t :=
  exec_store_effect s (.ldB x) (decimalDigits (s.reg x)) ⟨x, .inl rfl⟩
    (fun _ h => by simp only [exec, execLdB, h]) (fun _ h => by simp only [exec, execLdB, h])

theorem execStoreRegs_effect (s : State) (x : Nibble) :
    ∃ t, exec (.storeRegs x) s = .next t ∧ ExecEffect s (.storeRegs x) t :=
  exec_store_effect s (.storeRegs x) (s.firstRegs (regCount x)) ⟨x, .inr rfl⟩
    (fun _ h => by simp only [exec, execStoreRegs, h]) (fun _ h => by simp only [exec, execStoreRegs, h])

/-- A skip on a key jumps, or raises KEY_OOB with the number that is no key's (spec/60_exceptions.md R119). -/
theorem skipOnKey_effect (s : State) (i : Instr) (x : Nibble) (wanted : Bool) :
    ExecEffect s i (skipOnKey x wanted s) := by
  unfold skipOnKey
  split
  case isTrue hbig => exact .fatal _ _ _ ⟨by rwa [zext16_toNat], by rw [zext16_toNat]; exact (s.reg x).isLt⟩
  case isFalse => exact .transfer _ _

/-- All an execute part can do: it answers a next state, with one of the effects listed (spec/40_step_cycle.md R58). -/
theorem exec_effect (i : Instr) (s : State) : ∃ t, exec i s = .next t ∧ ExecEffect s i t := by
  cases i with
  | cls => exact ⟨_, rfl, .clear _⟩
  | ret => exact execRet_effect s
  | call nnn => exact execCall_effect s nnn
  | jp | jpV0 | seImm | sneImm | seReg | sneReg => exact ⟨_, rfl, .transfer _ _⟩
  | ldImm x nn => exact ⟨_, rfl, .register _ x _ (.inl ⟨nn, by simp⟩)⟩
  | addImm x nn => exact ⟨_, rfl, .register _ x _ (.inl ⟨nn, by simp⟩)⟩
  | ldReg x y | orReg x y | andReg x y | xorReg x y => exact ⟨_, rfl, .register _ x _ (.inr (.inl ⟨y, by simp⟩))⟩
  | addReg x y | subReg x y | shr x y | subnReg x y | shl x y => exact ⟨_, rfl, .flag _ x _ _ ⟨x, y, by simp⟩⟩
  | ldI nnn => exact ⟨_, rfl, .index _ _ (.inl ⟨nnn, rfl⟩)⟩
  | addI x | ldF x => exact ⟨_, rfl, .index _ _ (.inr ⟨x, by simp⟩)⟩
  | rnd => exact ⟨_, rfl, .random _ _ _⟩
  | drw x y n => exact execDrw_effect s x y n
  | skp x | sknp x => exact ⟨_, rfl, skipOnKey_effect s _ x _⟩
  | ldVxDt x => exact ⟨_, rfl, .register _ x _ (.inr (.inr rfl))⟩
  | ldVxK => exact ⟨_, rfl, .keyWait _⟩
  | ldDtVx => exact ⟨_, rfl, .delayTimer _ _⟩
  | ldStVx => exact ⟨_, rfl, .soundTimer _ _⟩
  | ldB x => exact execLdB_effect s x
  | storeRegs x => exact execStoreRegs_effect s x
  | loadRegs x => exact execLoadRegs_effect s x

theorem effect_of_exec {i : Instr} {s t : State} (h : exec i s = .next t) : ExecEffect s i t := by
  obtain ⟨u, hu, heff⟩ := exec_effect i s
  obtain rfl : u = t := by simpa [hu] using h
  exact heff

/-- An execute part that raised nothing fatal left the latch, the divider and the record of events alone, and memory in
canonical form; otherwise it only raised its fatal condition. -/
theorem exec_cases {i : Instr} {s t : State} (h : exec i s = .next t) :
    (∃ c info, FaultRecord.Explains ⟨c, info⟩ s ∧ t = s.raiseFatal c info) ∨
    (t.fault = s.fault ∧ t.div = s.div ∧ t.events = s.events ∧ t.key = s.key ∧ t.params = s.params ∧
      (s.waitActive = true → t.waitActive = true) ∧
      (Memory.wf s.params.font s.mem = true → Memory.wf s.params.font t.mem = true)) := by
  cases effect_of_exec h with
  | fatal _ c info hexp => exact .inl ⟨c, info, hexp, rfl⟩
  | keyWait => exact .inr ⟨rfl, rfl, rfl, rfl, rfl, fun _ => rfl, id⟩
  | store _ m _ hwf => exact .inr ⟨rfl, rfl, rfl, rfl, rfl, id, hwf⟩
  | _ => exact .inr ⟨rfl, rfl, rfl, rfl, rfl, id, id⟩

/-! ## What a step can answer (spec/40_step_cycle.md R56) -/

/-- The state a step answers, by the way it was reached: `step_cases` with the outcome of the execute part taken apart. -/
theorem step_next_cases {s t : State} (h : step s = .next t) :
    (s.fault.isSome ∧ t = s) ∨
    (s.fault = none ∧ s.waitActive = true ∧ t = s.beginStep.tick) ∨
    (s.fault = none ∧ s.waitActive = false ∧
      ((4094 < s.pc.toNat ∧ t = s.raiseMemOob (max s.pc.toNat 4096)) ∨
       (∃ w e, s.fetch = .ok w ∧ decode w = .error e ∧ t = s.endStep (s.beginStep.decodeFault w)) ∨
       (∃ w i u, s.fetch = .ok w ∧ decode w = .ok i ∧ exec i s.beginStep = .next u ∧ t = s.endStep u))) := by
  rcases step_cases s with
    ⟨hf, hs⟩ | ⟨hf, hw, hs⟩ | ⟨hf, hw, ⟨bad, hbad, hs⟩ | ⟨w, e, hfetch, hdec, hs⟩ | ⟨w, i, hfetch, hdec, hs⟩⟩
  · exact .inl ⟨hf, by simpa [hs] using h.symm⟩
  · exact .inr (.inl ⟨hf, hw, by simpa [hs] using h.symm⟩)
  · refine .inr (.inr ⟨hf, hw, .inl ?_⟩)
    rcases fetch_cases s with ⟨hpc, hfetch⟩ | ⟨-, hfetch⟩
    · obtain rfl : max s.pc.toNat 4096 = bad := by simpa [hfetch] using hbad
      exact ⟨hpc, by simpa [hs] using h.symm⟩
    · simp [hfetch] at hbad
  · exact .inr (.inr ⟨hf, hw, .inr (.inl ⟨w, e, hfetch, hdec, by simpa [hs] using h.symm⟩)⟩)
  · obtain ⟨u, hu, -⟩ := exec_effect i s.beginStep
    exact .inr (.inr ⟨hf, hw, .inr (.inr ⟨w, i, u, hfetch, hdec, hu, by simpa [hs, hu, onNext] using h.symm⟩)⟩)

/-! ## What a step leaves to the host (spec/10_state.md R22, spec/40_step_cycle.md R61) -/

/-- The key flags and the parameters stay, a key wait goes on, and the record of events only grows. -/
structure HostSideKept (s t : State) : Prop where
  key : t.key = s.key
  params : t.params = s.params
  wait : s.waitActive = true → t.waitActive = true
  events : s.events <+: t.events

theorem HostSideKept.trans {s t u : State} (h : HostSideKept s t) (h' : HostSideKept t u) : HostSideKept s u :=
  ⟨h'.key.trans h.key, h'.params.trans h.params, h'.wait ∘ h.wait, h.events.trans h'.events⟩

theorem raiseFatal_hostSideKept (s : State) (c : Cause) (info : Word) : HostSideKept s (s.raiseFatal c info) :=
  ⟨rfl, rfl, id, List.prefix_append _ _⟩

theorem tick_hostSideKept (s : State) : HostSideKept s s.tick := ⟨rfl, rfl, id, List.prefix_append _ _⟩

theorem render_hostSideKept (s : State) : HostSideKept s s.render := by
  rw [render_eq]
  exact ⟨rfl, rfl, id, List.prefix_append _ _⟩

theorem endStep_hostSideKept (s t : State) : HostSideKept t (s.endStep t) := by
  rcases endStep_cases s t with ⟨-, h⟩ | ⟨-, h⟩ <;> rw [h]
  · exact ⟨rfl, rfl, id, List.prefix_rfl⟩
  · exact (render_hostSideKept t).trans (tick_hostSideKept _)

theorem beginStep_hostSideKept (s : State) : HostSideKept s s.beginStep := ⟨rfl, rfl, id, List.prefix_rfl⟩

theorem exec_hostSideKept {i : Instr} {s t : State} (h : exec i s = .next t) : HostSideKept s t := by
  rcases exec_cases h with ⟨c, info, -, rfl⟩ | ⟨-, -, hev, hkey, hparams, hwait, -⟩
  · exact raiseFatal_hostSideKept s c info
  · exact ⟨hkey, hparams, hwait, hev ▸ List.prefix_rfl⟩

theorem step_hostSideKept {s t : State} (h : step s = .next t) : HostSideKept s t := by
  rcases step_next_cases h with ⟨-, rfl⟩ | ⟨-, -, rfl⟩ | ⟨-, -, ⟨-, rfl⟩ | ⟨w, _, -, -, rfl⟩ | ⟨_, i, u, -, -, hu, rfl⟩⟩
  · exact ⟨rfl, rfl, id, List.prefix_rfl⟩
  · exact (beginStep_hostSideKept s).trans (tick_hostSideKept _)
  · exact raiseFatal_hostSideKept s _ _
  · have hdecode : HostSideKept s (s.beginStep.decodeFault w) := ⟨rfl, rfl, id, List.prefix_append _ _⟩
    exact hdecode.trans (endStep_hostSideKept s _)
  · exact ((beginStep_hostSideKept s).trans (exec_hostSideKept hu)).trans (endStep_hostSideKept s u)

/-- Settles O25: every part of a step keeps the host's side, and so does their sequence. -/
theorem stepLeavesHostSideAlone : Obligations.StepLeavesHostSideAlone := fun _ _ h =>
  have hkept := step_hostSideKept h
  ⟨hkept.key, hkept.params, hkept.wait, hkept.events⟩

/-! ## The invariant -/

/-- While the latch is empty, the invariant asks of it only that no fatal condition has been reported. -/
theorem inv_iff_of_fault_none {s : State} (h : s.fault = none) :
    s.Inv ↔ Memory.wf s.params.font s.mem = true ∧ 1 ≤ s.div ∧ s.div ≤ s.params.tickDivider ∧
      ∀ f, Event.fatal f ∉ s.events := by
  constructor
  · rintro ⟨hmem, hpos, hle, hrep, -⟩
    exact ⟨hmem, hpos, hle, fun f hf => by simpa [h] using (hrep f).mp hf⟩
  · rintro ⟨hmem, hpos, hle, hrep⟩
    exact ⟨hmem, hpos, hle, fun f => by simp [h, hrep f], fun f hf => by simp [h] at hf⟩

/-- Raising a first fatal condition that the state explains keeps the invariant. -/
theorem raiseFatal_inv {s : State} {c : Cause} {info : Word} (hf : s.fault = none) (hs : s.Inv)
    (hexp : FaultRecord.Explains ⟨c, info⟩ s) : (s.raiseFatal c info).Inv := by
  obtain ⟨hmem, hpos, hle, hrep⟩ := (inv_iff_of_fault_none hf).mp hs
  refine ⟨hmem, hpos, hle, fun f => ?_, fun f hfault => ?_⟩
  · simp [hrep f, eq_comm]
  · obtain rfl : ⟨c, info⟩ = f := by simpa using hfault
    exact hexp

@[simp] theorem render_fault (s : State) : s.render.fault = s.fault := by rw [render_eq]

@[simp] theorem tick_fault (s : State) : s.tick.fault = s.fault := rfl

theorem beginStep_inv {s : State} (hs : s.Inv) : s.beginStep.Inv :=
  ⟨hs.memory, hs.dividerPos, hs.dividerLe, hs.reported, hs.explained⟩

theorem decodeFault_inv {s : State} (w : Word) (hf : s.fault = none) (hs : s.Inv) : (s.decodeFault w).Inv := by
  obtain ⟨hmem, hpos, hle, hrep⟩ := (inv_iff_of_fault_none hf).mp hs
  exact (inv_iff_of_fault_none ((decodeFault_fault s w).trans hf)).mpr ⟨hmem, hpos, hle, fun f => by simp [hrep f]⟩

theorem render_inv {s : State} (hf : s.fault = none) (hs : s.Inv) : s.render.Inv := by
  obtain ⟨hmem, hpos, hle, hrep⟩ := (inv_iff_of_fault_none hf).mp hs
  rw [inv_iff_of_fault_none ((render_fault s).trans hf), render_eq]
  refine ⟨hmem, hpos, hle, fun f => ?_⟩
  cases s.draw <;> simp [hrep f]

theorem tick_inv {s : State} (hf : s.fault = none) (hs : s.Inv) : s.tick.Inv := by
  obtain ⟨hmem, hpos, hle, hrep⟩ := (inv_iff_of_fault_none hf).mp hs
  rw [inv_iff_of_fault_none ((tick_fault s).trans hf)]
  rcases tick_cases s with ⟨-, htick⟩ | ⟨hdiv, htick⟩ <;> rw [htick]
  · refine ⟨hmem, hpos.trans hle, le_rfl, fun f => ?_⟩
    split <;> simp [hrep f]
  · exact ⟨hmem, Nat.le_sub_one_of_lt hdiv, (Nat.sub_le _ _).trans hle, hrep⟩

theorem endStep_inv {s t : State} (hf : t.fault = none) (ht : t.Inv) : (s.endStep t).Inv := by
  rcases endStep_cases s t with ⟨hsome, -⟩ | ⟨-, h⟩
  · simp [hf] at hsome
  · rw [h]
    exact tick_inv ((render_fault t).trans hf) (render_inv hf ht)

/-- The execute part and the end of its step: a fatal condition is raised on the state before the step, and otherwise the
divider, the latch and the record of events come through to the step's end unchanged. -/
theorem endStep_exec_inv {i : Instr} {s u : State} (hf : s.fault = none) (hs : s.Inv)
    (hu : exec i s.beginStep = .next u) : (s.endStep u).Inv := by
  rcases exec_cases hu with ⟨c, info, hexp, rfl⟩ | ⟨hfault, hdiv, hev, -, hparams, -, hwf⟩
  · rw [endStep_raiseFatal s _ c info rfl]
    exact raiseFatal_inv hf hs hexp
  · obtain ⟨hmem, hpos, hle, hrep⟩ := (inv_iff_of_fault_none hf).mp hs
    have hnone : u.fault = none := hfault.trans hf
    refine endStep_inv hnone ((inv_iff_of_fault_none hnone).mpr ?_)
    rw [hdiv, hev, hparams]
    exact ⟨hwf hmem, hpos, hle, hrep⟩

/-- Settles O20: each way through a step keeps the invariant. -/
theorem stepKeepsInvariant : Obligations.StepKeepsInvariant := by
  intro s t hs h
  rcases step_next_cases h with
    ⟨-, rfl⟩ | ⟨hf, -, rfl⟩ | ⟨hf, -, ⟨-, rfl⟩ | ⟨w, _, -, -, rfl⟩ | ⟨_, i, u, -, -, hu, rfl⟩⟩
  · exact hs
  · exact tick_inv hf (beginStep_inv hs)
  · exact raiseFatal_inv hf hs (memOob_explains s s.pc)
  · exact endStep_inv hf (decodeFault_inv w hf (beginStep_inv hs))
  · exact endStep_exec_inv hf hs hu

theorem resetWith_inv (p : Params) (h : 1 ≤ p.tickDivider) : (State.resetWith p).Inv :=
  (inv_iff_of_fault_none rfl).mpr ⟨resetWith_memory_wf p, h, le_rfl, fun _ => List.not_mem_nil⟩

/-- Settles O22: `State.reset` is one of the states after Reset, for a `TICK_DIVIDER` that is a successor. -/
theorem resetHasInvariant : Obligations.ResetHasInvariant :=
  ⟨resetWith_inv _ (Nat.le_add_left 1 _), resetWith_inv⟩

/-! ## Reset (spec/10_state.md R31) -/

theorem hostReset_reg (s : State) (x : Nibble) : (hostReset s).reg x = 0 := by
  simp [hostReset, State.resetWith, State.reg]

theorem hostReset_cell (s : State) (x : Fin 64) (y : Fin 32) : (hostReset s).fb.cell x y = false := cell_clear x y

/-- After Reset no byte is listed, so memory reads as R27 gives it. -/
theorem hostReset_readByte (s : State) (a : Nat) : (hostReset s).readByte a = Memory.initial s.params.font a := rfl

/-- Settles O59, element by element. -/
theorem resetSetsEveryElement : Obligations.ResetSetsEveryElement := by
  intro s
  refine ⟨hostReset_reg s, rfl, rfl, rfl, fun j hj => ?stack, rfl, rfl, rfl, rfl, rfl, rfl, rfl, rfl, hostReset_cell s,
    fun a ha => ?font, fun a ha => ?rest, rfl⟩
  case stack => exact Vector.getElem_replicate hj
  case font => rw [hostReset_readByte, Memory.initial, dif_pos ha]
  case rest => rw [hostReset_readByte, Memory.initial, dif_neg (by omega)]

/-! ## Who writes what (spec/10_state.md R14, R17) -/

/-- Settles O23: each kind of effect mentions only the registers its instructions may write. -/
theorem specialRegistersHaveTheirOwnWriters : Obligations.SpecialRegistersHaveTheirOwnWriters := by
  intro i s t h
  cases effect_of_exec h with
  | index _ _ hi | store _ _ hi => simp [hi]
  | fatal | transfer | register | flag | loadRegs => simp
  | random | ret | call | delayTimer | soundTimer | keyWait | clear | draw => simp

theorem flagByte_eq_zero_or_one (f : Bool) : flagByte f = 0 ∨ flagByte f = 1 := by
  cases f
  · exact .inl rfl
  · exact .inr rfl

/-- FX65 leaves VF alone unless `X = F`, since it loads `V0..VX` and no more (spec/45_index_memory.md R106). -/
theorem writeRegs_flag (v : Vector Byte 16) (x : Nibble) (bs : List Byte) (hlen : bs.length = regCount x)
    (hx : x ≠ 0xF) : (writeRegs v 0 bs)[15] = v[15] := by
  have hlt : x.toNat < 15 := by
    have : x.toNat ≠ 15 := fun e => hx (BitVec.eq_of_toNat_eq e)
    omega
  rw [writeRegs_getElem, dif_neg (by rw [hlen, regCount]; omega)]

/-- Of the class-8 flag writers, VF holds the flag afterwards. -/
theorem execAluFlagWriter_flag {i : Instr} {s t : State} (hi : IsAluFlagWriter i) (h : exec i s = .next t) :
    ∃ f, t.reg 0xF = flagByte f := by
  obtain ⟨x, y, rfl | rfl | rfl | rfl | rfl⟩ := hi <;> cases h <;>
    exact ⟨_, by rw [advance_reg, reg_setResultAndFlag, if_pos rfl]⟩

/-- A draw that raised nothing fatal leaves its collision flag in VF. -/
theorem execDrw_flag {x y n : Nibble} {s t : State} (h : exec (.drw x y n) s = .next t) (hnone : t.fault = none) :
    ∃ f, t.reg 0xF = flagByte f := by
  rcases loadBytes_cases s s.I.toNat n.toNat with ⟨-, -, hload⟩ | ⟨-, hload⟩ <;>
    simp only [exec, execDrw, hload] at h <;> cases h
  · simp at hnone
  · exact ⟨_, by rw [advance_reg, State.setFlag, reg_setReg_same]⟩

/-- An execute part that neither writes a flag nor names VF leaves VF alone. -/
theorem ExecEffect.flag_kept {i : Instr} {s t : State} (heff : ExecEffect s i t) (halu : ¬ IsAluFlagWriter i)
    (hdrw : ∀ x y n, i ≠ .drw x y n) (hdest : ¬ NamesDestination i 0xF) (hrnd : ∀ nn, i ≠ .rnd 0xF nn)
    (hload : i ≠ .loadRegs 0xF) : t.reg 0xF = s.reg 0xF := by
  cases heff with
  | register _ x b hi =>
    rw [advance_reg, reg_setReg_other s b]
    rintro rfl
    exact hdest hi
  | flag _ _ _ _ hi => exact absurd hi halu
  | loadRegs x bs hlen => exact writeRegs_flag s.v x bs hlen fun e => hload (e ▸ rfl)
  | random x nn b =>
    rw [advance_reg, nextRandom_reg, reg_setReg_other s b]
    rintro rfl
    exact hrnd nn rfl
  | draw x y n => exact absurd rfl (hdrw x y n)
  | _ => rfl

/-- Settles O24: the flag writers end in writing a flag, and every other effect misses VF. -/
theorem flagRegisterHasSixWriters : Obligations.FlagRegisterHasSixWriters := by
  intro i s t h
  refine ⟨?writes, ?keeps⟩
  case writes =>
    rintro (halu | ⟨x, y, n, rfl⟩) - hnone
    · obtain ⟨f, hf⟩ := execAluFlagWriter_flag halu h
      exact hf ▸ flagByte_eq_zero_or_one f
    · obtain ⟨f, hf⟩ := execDrw_flag h hnone
      exact hf ▸ flagByte_eq_zero_or_one f
  case keeps =>
    intro hwriter hnames
    refine (effect_of_exec h).flag_kept (fun halu => hwriter (.inl halu)) (fun x y n e => hwriter (.inr ⟨x, y, n, e⟩))
      ?_ (fun nn e => hnames (.inl ⟨nn, .inr (.inr e)⟩)) fun e => hnames (.inr (.inr (.inr e)))
    rintro (⟨nn, e | e⟩ | hreg | e)
    · exact hnames (.inl ⟨nn, .inl e⟩)
    · exact hnames (.inl ⟨nn, .inr (.inl e)⟩)
    · exact hnames (.inr (.inl hreg))
    · exact hnames (.inr (.inr (.inl e)))

end Sys2Proof.Machine

/-! PROOFS. Memory as the core sees it (spec/20_memory.md): what a store leaves behind, and every access past address 4095. -/

namespace Sys2Proof.Machine

/-! ## The datum of MEM_OOB (spec/92_eei_decisions.md D4) -/

/-- The lowest offending address, as the word the fatal condition carries. -/
theorem memOob_datum (a : Word) :
    BitVec.ofNat 16 (max a.toNat 4096) = if a.toNat < 4096 then 4096 else a := by
  split
  case isTrue hlt => rw [max_eq_right hlt.le]; rfl
  case isFalse hge => rw [max_eq_left (not_lt.mp hge), BitVec.ofNat_toNat, BitVec.setWidth_eq]

theorem raiseMemOob_isFatal (s : State) (a : Word) :
    IsFatal s (s.raiseMemOob (max a.toNat 4096)) .memOob (if a.toNat < 4096 then 4096 else a) := by
  rw [State.raiseMemOob, memOob_datum]
  rfl

/-! ## Fetch -/

/-- A Running step whose fetch goes past address 4095 raises MEM_OOB and nothing else (spec/40_step_cycle.md R63). -/
theorem step_of_fetch_outOfRange {s : State} (hf : s.fault = none) (hw : s.waitActive = false)
    (hpc : 4094 < s.pc.toNat) : step s = .next (s.raiseMemOob (max s.pc.toNat 4096)) := by
  rcases fetch_cases s with ⟨-, hfetch⟩ | ⟨hle, -⟩
  · simp only [step, control_running.mpr ⟨hf, hw⟩, hfetch]
  · omega

/-- Settles O10: above 4094 the address is below 4096 only for `pc = 4095`. -/
theorem fetchOutOfRangeIsFatal : Obligations.FetchOutOfRangeIsFatal := by
  intro s hf hw hpc
  refine ⟨_, step_of_fetch_outOfRange hf hw hpc, ?_⟩
  have hedge : s.pc.toNat = 4095 ↔ s.pc.toNat < 4096 := by omega
  simpa only [hedge] using raiseMemOob_isFatal s s.pc

/-! ## One byte -/

/-- Settles O49: the store of a one-byte list, by whether its address exists. -/
theorem storedByteReadsBack : Obligations.StoredByteReadsBack := by
  intro s a b
  rcases storeBytes_cases s a [b] with ⟨-, hout, hstore⟩ | ⟨hin, t, hstore, hframe, hinside, houtside, -⟩ <;>
    simp only [List.length_singleton] at *
  · exact ⟨fun ha => by omega, fun ha => by rw [hstore, max_eq_left ha]⟩
  · exact ⟨fun _ => ⟨t, hstore, hinside 0 one_pos, fun c hc => houtside c (by omega), hframe⟩, fun ha => by omega⟩

/-! ## FX33, FX55 and FX65 (spec/45_index_memory.md R104 to R106) -/

@[simp] theorem length_firstRegs (s : State) (x : Nibble) : (s.firstRegs (regCount x)).length = x.toNat + 1 := by
  simp only [State.firstRegs, regCount, List.length_take, Vector.length_toList]
  omega

theorem getElem_firstRegs (s : State) (n : Nat) (k : Nibble) (h : k.toNat < (s.firstRegs n).length) :
    (s.firstRegs n)[k.toNat] = s.reg k := by
  simp [State.firstRegs, State.reg]

theorem exec_ldB_outOfRange {s : State} (x : Nibble) (h : 4095 < s.I.toNat + 2) :
    exec (.ldB x) s = .next (s.raiseMemOob (max s.I.toNat 4096)) := by
  have hlen : (decimalDigits (s.reg x)).length = 3 := rfl
  simp only [exec, execLdB, storeBytes_error s (a := s.I.toNat) (bs := decimalDigits (s.reg x)) (by omega) (by omega)]

theorem exec_storeRegs_outOfRange {s : State} {x : Nibble} (h : 4095 < s.I.toNat + x.toNat) :
    exec (.storeRegs x) s = .next (s.raiseMemOob (max s.I.toNat 4096)) := by
  have hlen := length_firstRegs s x
  simp only [exec, execStoreRegs,
    storeBytes_error s (a := s.I.toNat) (bs := s.firstRegs (regCount x)) (by omega) (by omega)]

theorem exec_loadRegs_outOfRange {s : State} {x : Nibble} (h : 4095 < s.I.toNat + x.toNat) :
    exec (.loadRegs x) s = .next (s.raiseMemOob (max s.I.toNat 4096)) := by
  have hcount : regCount x = x.toNat + 1 := rfl
  simp only [exec, execLoadRegs, loadBytes_error s (a := s.I.toNat) (n := regCount x) (by omega) (by omega)]

/-- Settles O53: each of the three answers the fatal condition before it writes. -/
theorem memoryAccessOutOfRangeIsFatal : Obligations.MemoryAccessOutOfRangeIsFatal := fun s x =>
  have hfatal := raiseMemOob_isFatal s s.I
  ⟨fun h => ⟨_, exec_ldB_outOfRange x h, hfatal⟩,
    fun h => ⟨⟨_, exec_storeRegs_outOfRange h, hfatal⟩, ⟨_, exec_loadRegs_outOfRange h, hfatal⟩⟩⟩

/-- After FX55 with its addresses in memory, the byte at `I + k` is `V[k]`. -/
theorem readByte_of_exec_storeRegs {s t : State} {x k : Nibble} (hin : s.I.toNat + x.toNat ≤ 4095)
    (h : exec (.storeRegs x) s = .next t) (hk : k.toNat ≤ x.toNat) :
    t.readByte (s.I.toNat + k.toNat) = s.reg k := by
  have hlen := length_firstRegs s x
  rcases storeBytes_cases s s.I.toNat (s.firstRegs (regCount x)) with
    ⟨-, hout, -⟩ | ⟨-, u, hstore, -, hinside, -, -⟩
  · omega
  · obtain rfl : u.advance = t := by simpa only [exec, execStoreRegs, hstore, Host.Outcome.next.injEq] using h
    rw [advance_readByte, hinside k.toNat (by omega), getElem_firstRegs]

/-- Settles O55: with `pc = I` the fetch reads the bytes stored from V0 and V1. -/
theorem storedCodeIsFetched : Obligations.StoredCodeIsFetched := by
  rintro s t u x hx hin h rfl
  rcases fetch_cases { t with pc := s.I } with ⟨hout, -⟩ | ⟨-, hfetch⟩
  · exact absurd hout (by simp only; omega)
  · have hhi : t.readByte s.I.toNat = s.reg 0 := readByte_of_exec_storeRegs (k := 0) hin h (Nat.zero_le _)
    have hlo : t.readByte (s.I.toNat + 1) = s.reg 1 := readByte_of_exec_storeRegs (k := 1) hin h hx
    rw [← hhi, ← hlo]
    exact hfetch

end Sys2Proof.Machine

/-! PROOFS. The decoder and the encoder against each other and against the opcode map (spec/30_encoding.md). -/

namespace Sys2Proof

/-! ## The fields of a word (R47)

The encodings have three shapes, named by their last field: `c ++ nnn`, `c ++ x ++ nn` and `c ++ x ++ y ++ n`. A field of a
word put together in one of them is read back, and a word is put together again from its fields. -/

section Fields

open BitVec (extractLsb'_append_eq_left extractLsb'_append_eq_right extractLsb'_append_eq_of_le
  extractLsb'_append_extractLsb' extractLsb'_append_extractLsb'_eq_extractLsb')

variable (c x y n : Nibble) (nn : Byte) (nnn : Imm12) (w w' : Word)

@[simp] theorem opClass_append_nnn : opClass (c ++ nnn) = c := extractLsb'_append_eq_left
@[simp] theorem fieldNNN_append_nnn : fieldNNN (c ++ nnn) = nnn := extractLsb'_append_eq_right

@[simp] theorem opClass_append_nn : opClass (c ++ x ++ nn) = c :=
  (extractLsb'_append_eq_of_le (by decide)).trans extractLsb'_append_eq_left
@[simp] theorem fieldX_append_nn : fieldX (c ++ x ++ nn) = x :=
  (extractLsb'_append_eq_of_le (by decide)).trans extractLsb'_append_eq_right
@[simp] theorem fieldNN_append_nn : fieldNN (c ++ x ++ nn) = nn := extractLsb'_append_eq_right

@[simp] theorem opClass_append_n : opClass (c ++ x ++ y ++ n) = c :=
  (extractLsb'_append_eq_of_le (by decide)).trans
    ((extractLsb'_append_eq_of_le (by decide)).trans extractLsb'_append_eq_left)
@[simp] theorem fieldX_append_n : fieldX (c ++ x ++ y ++ n) = x :=
  (extractLsb'_append_eq_of_le (by decide)).trans
    ((extractLsb'_append_eq_of_le (by decide)).trans extractLsb'_append_eq_right)
@[simp] theorem fieldY_append_n : fieldY (c ++ x ++ y ++ n) = y :=
  (extractLsb'_append_eq_of_le (by decide)).trans extractLsb'_append_eq_right
@[simp] theorem fieldN_append_n : fieldN (c ++ x ++ y ++ n) = n := extractLsb'_append_eq_right

variable {c n nn nnn w}

theorem append_nnn_eq (hc : opClass w = c) (hnnn : fieldNNN w = nnn) : c ++ nnn = w := by
  rw [← hc, ← hnnn]
  exact extractLsb'_append_extractLsb'

theorem append_x_nn_eq (hc : opClass w = c) (hnn : fieldNN w = nn) : c ++ fieldX w ++ nn = w := by
  have hhigh : opClass w ++ fieldX w = w.extractLsb' 8 8 := extractLsb'_append_extractLsb'_eq_extractLsb' rfl
  rw [← hc, ← hnn, hhigh]
  exact extractLsb'_append_extractLsb'

theorem append_x_y_n_eq (hc : opClass w = c) (hn : fieldN w = n) : c ++ fieldX w ++ fieldY w ++ n = w := by
  have hlow : fieldY w ++ fieldN w = fieldNN w := extractLsb'_append_extractLsb'_eq_extractLsb' rfl
  exact BitVec.append_assoc.trans (append_x_nn_eq hc (hn ▸ hlow.symm))

variable (w)

theorem opClass_and : opClass (w &&& w') = opClass w &&& opClass w' := BitVec.extractLsb'_and
theorem fieldN_and : fieldN (w &&& w') = fieldN w &&& fieldN w' := BitVec.extractLsb'_and
theorem fieldNN_and : fieldNN (w &&& w') = fieldNN w &&& fieldNN w' := BitVec.extractLsb'_and

theorem toNat_opClass : (opClass w).toNat = w.toNat / 4096 := by
  rw [opClass, BitVec.extractLsb'_toNat, Nat.shiftRight_eq_div_pow]
  omega
theorem toNat_fieldN : (fieldN w).toNat = w.toNat % 16 := BitVec.extractLsb'_toNat ..
theorem toNat_fieldNN : (fieldNN w).toNat = w.toNat % 256 := BitVec.extractLsb'_toNat ..
theorem toNat_fieldNNN : (fieldNNN w).toNat = w.toNat % 4096 := BitVec.extractLsb'_toNat ..

end Fields

/-! ## Decoding an encoded instruction -/

theorem decode_of_classF {w : Word} (hc : opClass w = 0xF#4) : decode w = decodeClassF w := by
  rw [decode, hc]
  rfl

theorem decode_encode (i : Instr) : decode (encode i) = .ok i := by
  cases i
  case cls | ret => rfl
  case jp | call | ldI | jpV0 => simp only [encode, decode, opClass_append_nnn, fieldNNN_append_nnn]
  case seImm | sneImm | ldImm | addImm | rnd =>
    simp only [encode, decode, opClass_append_nn, fieldX_append_nn, fieldNN_append_nn]
  case drw =>
    simp only [encode, decode, opClass_append_n, fieldX_append_n, fieldY_append_n, fieldN_append_n]
  case seReg | sneReg =>
    simp only [encode, decode, opClass_append_n, fieldX_append_n, fieldY_append_n, fieldN_append_n]
    rfl
  case ldReg | orReg | andReg | xorReg | addReg | subReg | shr | subnReg | shl =>
    simp only [encode, decode, decodeClass8, opClass_append_n, fieldX_append_n, fieldY_append_n, fieldN_append_n]
  case skp | sknp =>
    simp only [encode, decode, decodeClassE, opClass_append_nn, fieldX_append_nn, fieldNN_append_nn]
  case ldVxDt | ldVxK | ldDtVx | ldStVx | addI | ldF | ldB | storeRegs | loadRegs =>
    rw [encode, decode_of_classF (opClass_append_nn ..)]
    simp only [decodeClassF, fieldX_append_nn, fieldNN_append_nn]

/-- Settles O1: each field is read back from the concatenation that put it there. -/
theorem decodeUndoesEncode : Obligations.DecodeUndoesEncode := decode_encode

/-! ## What the decoder can answer -/

/-- What R51 matches in `NNN` for class 0. -/
def class0Selectors : List Imm12 := [0x0E0#12, 0x0EE#12]
/-- What R51 matches in `N` for class 8. -/
def class8Selectors : List Nibble := [0x0#4, 0x1#4, 0x2#4, 0x3#4, 0x4#4, 0x5#4, 0x6#4, 0x7#4, 0xE#4]
/-- What R51 matches in `NN` for class E. -/
def classESelectors : List Byte := [0x9E#8, 0xA1#8]
/-- What R51 matches in `NN` for class F. -/
def classFSelectors : List Byte :=
  [0x07#8, 0x0A#8, 0x15#8, 0x18#8, 0x1E#8, 0x29#8, 0x33#8, 0x55#8, 0x65#8]

/-- The words of R52, class by class: the sub-selector is none that R51 lists for the class. -/
def Unrecognised (w : Word) : Prop :=
  (opClass w = 0x0#4 ∧ fieldNNN w ∉ class0Selectors) ∨
  (opClass w = 0x5#4 ∧ fieldN w ≠ 0) ∨
  (opClass w = 0x8#4 ∧ fieldN w ∉ class8Selectors) ∨
  (opClass w = 0x9#4 ∧ fieldN w ≠ 0) ∨
  (opClass w = 0xE#4 ∧ fieldNN w ∉ classESelectors) ∨
  (opClass w = 0xF#4 ∧ fieldNN w ∉ classFSelectors)

/-- The two answers of a decoder of `w` that rejects `w` exactly when `bad`. -/
inductive DecodeAnswer (w : Word) (bad : Prop) : Except Reject Instr → Prop where
  | ok (i : Instr) (hword : encode i = w) (hgood : ¬ bad) : DecodeAnswer w bad (.ok i)
  | unrecognised (hbad : bad) : DecodeAnswer w bad (.error (.unrecognised w))

theorem decodeClass0_answer {w : Word} (hc : opClass w = 0x0#4) :
    DecodeAnswer w (fieldNNN w ∉ class0Selectors) (decodeClass0 w) := by
  unfold decodeClass0
  split
  case h_1 hnnn | h_2 hnnn => exact .ok _ (append_nnn_eq hc hnnn) (by simp [class0Selectors, hnnn])
  case h_3 => exact .unrecognised (by simp_all [class0Selectors])

theorem decodeClass8_answer {w : Word} (hc : opClass w = 0x8#4) :
    DecodeAnswer w (fieldN w ∉ class8Selectors) (decodeClass8 w) := by
  unfold decodeClass8
  split
  case h_1 hn | h_2 hn | h_3 hn | h_4 hn | h_5 hn | h_6 hn | h_7 hn | h_8 hn | h_9 hn =>
    exact .ok _ (append_x_y_n_eq hc hn) (by simp [class8Selectors, hn])
  case h_10 => exact .unrecognised (by simp_all [class8Selectors])

theorem decodeClassE_answer {w : Word} (hc : opClass w = 0xE#4) :
    DecodeAnswer w (fieldNN w ∉ classESelectors) (decodeClassE w) := by
  unfold decodeClassE
  split
  case h_1 hnn | h_2 hnn => exact .ok _ (append_x_nn_eq hc hnn) (by simp [classESelectors, hnn])
  case h_3 => exact .unrecognised (by simp_all [classESelectors])

theorem decodeClassF_answer {w : Word} (hc : opClass w = 0xF#4) :
    DecodeAnswer w (fieldNN w ∉ classFSelectors) (decodeClassF w) := by
  unfold decodeClassF
  split
  case h_1 hnn | h_2 hnn | h_3 hnn | h_4 hnn | h_5 hnn | h_6 hnn | h_7 hnn | h_8 hnn | h_9 hnn =>
    exact .ok _ (append_x_nn_eq hc hnn) (by simp [classFSelectors, hnn])
  case h_10 => exact .unrecognised (by simp_all [classFSelectors])

/-- The last class, which `decode` answers by its default arm. -/
theorem eq_F_of_not_mem : ∀ c : Nibble, c ∉ [0x0#4, 0x1#4, 0x2#4, 0x3#4, 0x4#4, 0x5#4, 0x6#4, 0x7#4, 0x8#4, 0x9#4,
    0xA#4, 0xB#4, 0xC#4, 0xD#4, 0xE#4] → c = 0xF#4 := by decide

theorem decode_answer (w : Word) : DecodeAnswer w (Unrecognised w) (decode w) := by
  unfold decode
  split
  case h_1 hc => simpa [Unrecognised, hc] using decodeClass0_answer hc
  case h_9 hc => simpa [Unrecognised, hc] using decodeClass8_answer hc
  case h_15 hc => simpa [Unrecognised, hc] using decodeClassE_answer hc
  case h_16 =>
    have hc : opClass w = 0xF#4 := eq_F_of_not_mem _ (by simp_all)
    simpa [Unrecognised, hc] using decodeClassF_answer hc
  case h_6 hc | h_10 hc =>
    split
    case isTrue hn => exact .ok _ (append_x_y_n_eq hc hn) (by simp [Unrecognised, hc, hn])
    case isFalse hn => exact .unrecognised (by simpa [Unrecognised, hc] using hn)
  case h_2 hc | h_3 hc | h_11 hc | h_12 hc =>
    exact .ok _ (append_nnn_eq hc rfl) (by simp [Unrecognised, hc])
  case h_14 hc =>
    exact .ok _ (append_x_y_n_eq hc rfl) (by simp [Unrecognised, hc])
  case h_4 hc | h_5 hc | h_7 hc | h_8 hc | h_13 hc =>
    exact .ok _ (append_x_nn_eq hc rfl) (by simp [Unrecognised, hc])

theorem encode_of_decode {w : Word} {i : Instr} (h : decode w = .ok i) : encode i = w := by
  have hanswer := decode_answer w
  rw [h] at hanswer
  cases hanswer with
  | ok _ hword _ => exact hword

theorem decode_eq_unrecognised_iff (w : Word) : decode w = .error (.unrecognised w) ↔ Unrecognised w := by
  have hanswer := decode_answer w
  generalize decode w = answer at hanswer ⊢
  cases hanswer with
  | ok i _ hgood => simp [hgood]
  | unrecognised hbad => simp [hbad]

/-- Settles O2: `decode_answer` says what a decoded word was put together from. -/
theorem encodeUndoesDecode : Obligations.EncodeUndoesDecode := fun _ _ => encode_of_decode

/-- R52 lists the unrecognised selectors of class 8 themselves. -/
theorem not_mem_class8_iff : ∀ n : Nibble, n ∉ class8Selectors ↔
    n.toNat ∈ [0x8, 0x9, 0xA, 0xB, 0xC, 0xD, 0xF] := by decide

/-- Settles O5: `decode_answer`, with the fields written as quotients and remainders. -/
theorem unrecognisedWordsByClass : Obligations.UnrecognisedWordsByClass := by
  intro w
  rw [decode_eq_unrecognised_iff, Unrecognised, not_mem_class8_iff]
  simp [class0Selectors, classESelectors, classFSelectors, ← BitVec.toNat_inj, toNat_opClass, toNat_fieldN,
    toNat_fieldNN, toNat_fieldNNN]

/-- Settles O6: the twelve words are encodings, and the sentinel is a word of class 0. -/
theorem specWordsDecode : Obligations.SpecWordsDecode :=
  ⟨decode_encode .cls, decode_encode (.drw 0 1 5), decode_encode (.call 0xABC), decode_encode (.seImm 0xB 0x7F),
    decode_encode (.sneReg 2 3), decode_encode (.sknp 1), decode_encode (.ldImm 0xF 0xAB), decode_encode (.shr 0 1),
    decode_encode (.rnd 3 0x0F), decode_encode (.ldI 0x22A), decode_encode (.storeRegs 1), decode_encode (.ldVxDt 2),
    (decode_eq_unrecognised_iff _).mpr (.inl (by decide))⟩

/-! ## The rows of the opcode map (R51) -/

section Rows

variable {w : Word} {r : OpcodeRow}

theorem selects_iff : r.selects w = true ↔ w &&& r.mask = r.pattern := decide_eq_true_iff

theorem row_mem_opcodeMap (i : Instr) : i.row ∈ opcodeMap := by
  cases i <;> simp [opcodeMap, Instr.samples, Instr.row]

/-! The three masks of R51 with operands: what each keeps of a word. -/

theorem and_F000 (w : Word) : w &&& 0xF000 = opClass w ++ 0#12 :=
  calc w &&& 0xF000
    _ = (opClass w ++ fieldNNN w) &&& (0xF#4 ++ 0#12) := by rw [append_nnn_eq rfl rfl]; rfl
    _ = (opClass w &&& 0xF#4) ++ (fieldNNN w &&& 0#12) := BitVec.and_append
    _ = opClass w ++ 0#12 := congrArg₂ (· ++ ·) BitVec.and_allOnes BitVec.and_zero

theorem and_F0FF (w : Word) : w &&& 0xF0FF = opClass w ++ 0#4 ++ fieldNN w :=
  calc w &&& 0xF0FF
    _ = (opClass w ++ fieldX w ++ fieldNN w) &&& (0xF#4 ++ 0#4 ++ 0xFF#8) := by rw [append_x_nn_eq rfl rfl]; rfl
    _ = (opClass w &&& 0xF#4) ++ (fieldX w &&& 0#4) ++ (fieldNN w &&& 0xFF#8) := by
      rw [BitVec.and_append, BitVec.and_append]
    _ = opClass w ++ 0#4 ++ fieldNN w :=
      congrArg₂ (· ++ ·) (congrArg₂ (· ++ ·) BitVec.and_allOnes BitVec.and_zero) BitVec.and_allOnes

theorem and_F00F (w : Word) : w &&& 0xF00F = opClass w ++ 0#4 ++ 0#4 ++ fieldN w :=
  calc w &&& 0xF00F
    _ = (opClass w ++ fieldX w ++ fieldY w ++ fieldN w) &&& (0xF#4 ++ 0#4 ++ 0#4 ++ 0xF#4) := by
      rw [append_x_y_n_eq rfl rfl]; rfl
    _ = (opClass w &&& 0xF#4) ++ (fieldX w &&& 0#4) ++ (fieldY w &&& 0#4) ++ (fieldN w &&& 0xF#4) := by
      rw [BitVec.and_append, BitVec.and_append, BitVec.and_append]
    _ = opClass w ++ 0#4 ++ 0#4 ++ fieldN w :=
      congrArg₂ (· ++ ·) (congrArg₂ (· ++ ·) (congrArg₂ (· ++ ·) BitVec.and_allOnes BitVec.and_zero) BitVec.and_zero)
        BitVec.and_allOnes

theorem row_selects_encode (i : Instr) : i.row.selects (encode i) = true := by
  rw [selects_iff]
  cases i
  case cls | ret => rfl
  case jp | call | ldI | jpV0 =>
    simp only [Instr.row, encode, and_F000, opClass_append_nnn]
    rfl
  case seImm | sneImm | ldImm | addImm | rnd =>
    simp only [Instr.row, encode, and_F000, opClass_append_nn]
    rfl
  case drw =>
    simp only [Instr.row, encode, and_F000, opClass_append_n]
    rfl
  case seReg | sneReg | ldReg | orReg | andReg | xorReg | addReg | subReg | shr | subnReg | shl =>
    simp only [Instr.row, encode, and_F00F, opClass_append_n, fieldN_append_n]
    rfl
  case skp | sknp | ldVxDt | ldVxK | ldDtVx | ldStVx | addI | ldF | ldB | storeRegs | loadRegs =>
    simp only [Instr.row, encode, and_F0FF, opClass_append_nn, fieldNN_append_nn]
    rfl

theorem row_selects_of_decode {i : Instr} (h : decode w = .ok i) : i.row.selects w = true :=
  encode_of_decode h ▸ row_selects_encode i

/-! A field that the mask keeps whole is the pattern's. -/

theorem opClass_of_selects (hmask : opClass r.mask = 0xF#4) (h : r.selects w = true) :
    opClass w = opClass r.pattern := by
  rw [← selects_iff.mp h, opClass_and, hmask]
  exact BitVec.and_allOnes.symm

theorem fieldN_of_selects (hmask : fieldN r.mask = 0xF#4) (h : r.selects w = true) :
    fieldN w = fieldN r.pattern := by
  rw [← selects_iff.mp h, fieldN_and, hmask]
  exact BitVec.and_allOnes.symm

theorem fieldNN_of_selects (hmask : fieldNN r.mask = 0xFF#8) (h : r.selects w = true) :
    fieldNN w = fieldNN r.pattern := by
  rw [← selects_iff.mp h, fieldNN_and, hmask]
  exact BitVec.and_allOnes.symm

/-- Each sub-decoder is reached and answered by the fields that the row's pattern fixes. -/
theorem decode_of_row_selects {i : Instr} (h : i.row.selects w = true) : ∃ j, decode w = .ok j ∧ j.row = i.row := by
  unfold decode
  cases i
  all_goals
    simp only [Instr.row] at h ⊢
    rw [opClass_of_selects rfl h]
  case cls | ret =>
    obtain rfl := (BitVec.and_allOnes (x := w)).symm.trans (selects_iff.mp h)
    exact ⟨_, rfl, rfl⟩
  case seReg | sneReg =>
    rw [fieldN_of_selects rfl h]
    exact ⟨_, rfl, rfl⟩
  case ldReg | orReg | andReg | xorReg | addReg | subReg | shr | subnReg | shl =>
    unfold decodeClass8
    rw [fieldN_of_selects rfl h]
    exact ⟨_, rfl, rfl⟩
  case skp | sknp =>
    unfold decodeClassE
    rw [fieldNN_of_selects rfl h]
    exact ⟨_, rfl, rfl⟩
  case ldVxDt | ldVxK | ldDtVx | ldStVx | addI | ldF | ldB | storeRegs | loadRegs =>
    unfold decodeClassF
    rw [fieldNN_of_selects rfl h]
    exact ⟨_, rfl, rfl⟩
  case jp | call | seImm | sneImm | ldImm | addImm | ldI | jpV0 | rnd | drw => exact ⟨_, rfl, rfl⟩

theorem decode_of_selects (hr : r ∈ opcodeMap) (h : r.selects w = true) : ∃ j, decode w = .ok j ∧ j.row = r := by
  obtain ⟨i, -, rfl⟩ := List.mem_map.mp hr
  exact decode_of_row_selects h

theorem wellFormedWord_iff : wellFormedWord w = true ↔ ∃ i, decode w = .ok i := by
  rw [wellFormedWord, List.any_eq_true]
  constructor
  · rintro ⟨r, hr, hsel⟩
    obtain ⟨j, hj, -⟩ := decode_of_selects hr hsel
    exact ⟨j, hj⟩
  · rintro ⟨i, hi⟩
    exact ⟨i.row, row_mem_opcodeMap i, row_selects_of_decode hi⟩

end Rows

/-- Settles O3: the row of an instruction selects its encoding, and a word that a row selects decodes. -/
theorem decodeFollowsOpcodeMap : Obligations.DecodeFollowsOpcodeMap :=
  ⟨fun _ i h => ⟨row_mem_opcodeMap i, row_selects_of_decode h⟩, fun _ => wellFormedWord_iff⟩

/-- Settles O4: the decoder answers one instruction, and both rows are its row. -/
theorem opcodeRowsAreDisjoint : Obligations.OpcodeRowsAreDisjoint := by
  intro w r r' hr hr' hsel hsel'
  obtain ⟨j, hj, rfl⟩ := decode_of_selects hr hsel
  obtain ⟨j', hj', rfl⟩ := decode_of_selects hr' hsel'
  rw [Except.ok.inj (hj.symm.trans hj')]

end Sys2Proof

/-! PROOFS. The step and its parts (spec/40_step_cycle.md): the fetched word, the key wait, the events of a step, and that
every operation answers a next state. -/

namespace Sys2Proof.Machine

/-! ## Fetch -/

/-- The byte at the lower address counts 256-fold (spec/20_memory.md R39). -/
theorem wordOfBytes_toNat (hi lo : Byte) : (wordOfBytes hi lo).toNat = 256 * hi.toNat + lo.toNat := by
  rw [wordOfBytes, BitVec.toNat_append, ← Nat.shiftLeft_add_eq_or_of_lt lo.isLt, Nat.shiftLeft_eq, Nat.mul_comm]

/-- Settles O7: the two cases of the fetch, with the value of the word where it answers one. -/
theorem fetchIsBigEndian : Obligations.FetchIsBigEndian := by
  intro s
  rcases fetch_cases s with ⟨hpc, hfetch⟩ | ⟨hpc, hfetch⟩
  · exact ⟨fun hle => by omega, fun _ => ⟨_, hfetch⟩⟩
  · exact ⟨fun _ => ⟨_, hfetch, wordOfBytes_toNat _ _⟩, fun hgt => by omega⟩

/-! ## The step of each controlling state (R55, R56) -/

/-- With the latch set a step changes nothing (R62). -/
theorem step_of_faulted {s : State} (hf : s.fault.isSome) : step s = .next s := by
  simp only [step, control_faulted.mpr hf]

/-- A step that waits for a key is the tick alone (R61). -/
theorem step_of_awaitingKey {s : State} (hf : s.fault = none) (hw : s.waitActive = true) :
    step s = .next s.beginStep.tick := by
  simp only [step, control_awaitingKey.mpr ⟨hf, hw⟩]

/-- A Running step is the execute part of the decoded instruction and then the end of the step (R58). -/
theorem step_of_exec {s u : State} {w : Word} {i : Instr} (hf : s.fault = none) (hw : s.waitActive = false)
    (hfetch : s.fetch = .ok w) (hdec : decode w = .ok i) (hu : exec i s.beginStep = .next u) :
    step s = .next (s.endStep u) := by
  simp only [step, control_running.mpr ⟨hf, hw⟩, hfetch, hdec, hu, onNext]

theorem endStep_of_fault_none (s : State) {u : State} (h : u.fault = none) : s.endStep u = u.render.tick := by
  simp [State.endStep, h]

theorem endStep_of_fault_some (s : State) {u : State} {f : FaultRecord} (h : u.fault = some f) :
    s.endStep u = { u with draw := s.draw } := by
  simp [State.endStep, h]

@[simp] theorem endStep_fault (s u : State) : (s.endStep u).fault = u.fault := by
  rcases endStep_cases s u with ⟨-, h⟩ | ⟨-, h⟩ <;> simp [h]

/-- Settles O8: the end of the step, by the latch the execute part left. -/
theorem stepRunsDecodedInstruction : Obligations.StepRunsDecodedInstruction := by
  intro s i hf hw hpc hdec
  rcases fetch_cases s with ⟨hgt, -⟩ | ⟨-, hfetch⟩
  · omega
  · exact ⟨fun t ht hnone => (step_of_exec hf hw hfetch hdec ht).trans (by rw [endStep_of_fault_none s hnone]),
      fun t f ht hsome => (step_of_exec hf hw hfetch hdec ht).trans (by rw [endStep_of_fault_some s hsome])⟩

/-- Settles O11: each of the three operations looks at the latch first. -/
theorem faultedMachineIsFrozen : Obligations.FaultedMachineIsFrozen := by
  intro s hfault
  have hsome : s.fault.isSome := Option.isSome_iff_ne_none.mpr hfault
  exact ⟨step_of_faulted hsome, fun _ => if_pos hsome, fun _ => if_pos hsome⟩

/-! ## The key wait (R61) -/

/-- A tick emits at most a `Beep`: on the divider's last count, with the sound timer at 1 (spec/60_exceptions.md R125). -/
theorem tick_events (s : State) :
    s.tick.events = s.events ++ if s.div ≤ 1 ∧ s.st = 1 then [.beep] else [] := by
  rcases tick_cases s with ⟨hdiv, htick⟩ | ⟨hdiv, htick⟩ <;> rw [htick]
  · simp only [hdiv, true_and]
  · rw [if_neg fun h => absurd h.1 (Nat.not_le.mpr hdiv), List.append_nil]

/-- Settles O12: the tick writes only the parts named, and its only event is a `Beep`. -/
theorem awaitingKeyStepOnlyTicks : Obligations.AwaitingKeyStepOnlyTicks := by
  intro s hf hw
  refine ⟨_, step_of_awaitingKey hf hw, rfl, rfl, ?events, fun _ => rfl⟩
  rw [tick_events]
  split
  · exact .inr rfl
  · exact .inl (List.append_nil _)

/-- What steps can do to a machine that waits for a key: the timers run, the random input is exchanged, and every event
added is a `Beep`. -/
def OnlyWaits (s t : State) : Prop :=
  t = { s with draw := t.draw, div := t.div, dt := t.dt, st := t.st, events := t.events, rnd := t.rnd } ∧
    ∃ beeps, t.events = s.events ++ beeps ∧ ∀ e ∈ beeps, e = Event.beep

theorem OnlyWaits.refl (s : State) : OnlyWaits s s := ⟨rfl, [], (List.append_nil _).symm, by simp⟩

theorem OnlyWaits.trans {s t u : State} (h : OnlyWaits s t) (h' : OnlyWaits t u) : OnlyWaits s u := by
  obtain ⟨hst, beeps, hevents, hbeeps⟩ := h
  obtain ⟨htu, beeps', hevents', hbeeps'⟩ := h'
  refine ⟨by rw [htu, hst], beeps ++ beeps', by rw [hevents', hevents, List.append_assoc], fun e he => ?_⟩
  exact (List.mem_append.mp he).elim (hbeeps e) (hbeeps' e)

theorem OnlyWaits.fault_eq {s t : State} (h : OnlyWaits s t) : t.fault = s.fault := by rw [h.1]

theorem OnlyWaits.waitActive_eq {s t : State} (h : OnlyWaits s t) : t.waitActive = s.waitActive := by rw [h.1]

/-- One step given any random byte. -/
theorem stepWith_onlyWaits {s : State} (r : Byte) (hf : s.fault = none) (hw : s.waitActive = true) :
    ∃ t, stepWith r s = .next t ∧ OnlyWaits s t := by
  obtain ⟨t, hstep, -, hframe, hevents, -⟩ := awaitingKeyStepOnlyTicks { s with rnd := r } hf hw
  refine ⟨t, hstep, by rw [hframe], ?_⟩
  rcases hevents with h | h
  · exact ⟨[], by rw [h, List.append_nil], by simp⟩
  · exact ⟨[.beep], h, by simp⟩

/-- Settles O13, by induction on the steps: each leaves a machine that still waits. -/
theorem keyWaitOutlastsAnySteps : Obligations.KeyWaitOutlastsAnySteps := by
  intro rs
  induction rs with
  | nil => exact fun s _ _ => ⟨s, rfl, OnlyWaits.refl s⟩
  | cons r rs ih =>
    intro s hf hw
    obtain ⟨t, hstep, hst⟩ := stepWith_onlyWaits r hf hw
    obtain ⟨u, hrun, htu⟩ := ih t (hst.fault_eq.trans hf) (hst.waitActive_eq.trans hw)
    refine ⟨u, ?_, hst.trans htu⟩
    simp only [List.map_cons, performAll, perform, hstep, hrun]

/-! ## Every operation answers a next state (R66) -/

theorem step_answers_next (s : State) : ∃ t, step s = .next t := by
  rcases step_cases s with ⟨-, h⟩ | ⟨-, -, h⟩ | ⟨-, -, ⟨_, -, h⟩ | ⟨_, _, -, -, h⟩ | ⟨_, i, -, -, h⟩⟩
  · exact ⟨_, h⟩
  · exact ⟨_, h⟩
  · exact ⟨_, h⟩
  · exact ⟨_, h⟩
  · obtain ⟨u, hu, -⟩ := exec_effect i s.beginStep
    exact ⟨s.endStep u, by rw [h, hu, onNext]⟩

/-- Settles O14: the host's own operations are functions on states, and `Step(rnd)` is a step. -/
theorem everyOperationAnswersNext : Obligations.EveryOperationAnswersNext := by
  refine ⟨step_answers_next, fun o s => ?_⟩
  cases o with
  | reset | loadProgram | applyInput => exact ⟨_, rfl⟩
  | step r => exact step_answers_next _

/-! ## Fatal steps (R63) -/

/-- A raised fatal condition is the one the latch then holds. -/
theorem raiseFatal_isFatal {s : State} {c : Cause} {info : Word} {f : FaultRecord}
    (h : (s.raiseFatal c info).fault = some f) : IsFatal s (s.raiseFatal c info) f.cause f.info := by
  obtain rfl : ⟨c, info⟩ = f := by simpa using h
  rfl

/-- Settles O18: only the fetch and the execute part can set the latch, and they do so by `raiseFatal`. -/
theorem fatalStepIsPrecise : Obligations.FatalStepIsPrecise := by
  intro s t f hf h hfault
  rcases step_next_cases h with
    ⟨hsome, -⟩ | ⟨-, -, rfl⟩ | ⟨-, -, ⟨-, rfl⟩ | ⟨_, _, -, -, rfl⟩ | ⟨_, i, u, -, -, hu, rfl⟩⟩
  · simp [hf] at hsome
  · simp [hf] at hfault
  · exact raiseFatal_isFatal hfault
  · simp [hf] at hfault
  · rcases exec_cases hu with ⟨c, info, -, rfl⟩ | ⟨hkept, -⟩
    · rw [endStep_raiseFatal s _ c info rfl] at hfault ⊢
      exact raiseFatal_isFatal hfault
    · simp [hkept, hf] at hfault

/-! ## The events of a step (R60, spec/60_exceptions.md R125) -/

@[simp] theorem render_div (s : State) : s.render.div = s.div := by rw [render_eq]

@[simp] theorem render_st (s : State) : s.render.st = s.st := by rw [render_eq]

theorem render_events (s : State) : s.render.events = s.events ++ if s.draw then [.render s.fb] else [] := by
  rw [render_eq]

/-- 00E0 and DXYN set the draw flag, unless they end in a fatal condition. -/
theorem draw_of_exec_drawing {i : Instr} {s u : State} (hi : i = .cls ∨ ∃ x y n, i = .drw x y n)
    (h : exec i s = .next u) (hnone : u.fault = none) : u.draw = true := by
  rcases hi with rfl | ⟨x, y, n, rfl⟩
  · cases h
    rfl
  · rcases loadBytes_cases s s.I.toNat n.toNat with ⟨-, -, hload⟩ | ⟨-, hload⟩ <;>
      simp only [exec, execDrw, hload] at h <;> cases h
    · simp at hnone
    · rfl

/-- Every other instruction leaves it alone. -/
theorem draw_of_exec_other {i : Instr} {s u : State} (hcls : i ≠ .cls) (hdrw : ∀ x y n, i ≠ .drw x y n)
    (h : exec i s = .next u) : u.draw = s.draw := by
  cases effect_of_exec h with
  | clear => exact absurd rfl hcls
  | draw x y n => exact absurd rfl (hdrw x y n)
  | _ => rfl

/-- Settles O15: the step ends in render and tick, and the execute part emits nothing and leaves the divider alone. -/
theorem renderFollowsDrawing : Obligations.RenderFollowsDrawing := by
  intro s t w i hf hw hfetch hdec hstep hnone
  obtain ⟨u, hu, -⟩ := exec_effect i s.beginStep
  obtain rfl : s.endStep u = t := by simpa [step_of_exec hf hw hfetch hdec hu] using hstep
  rw [endStep_fault] at hnone
  rcases exec_cases hu with ⟨_, _, -, rfl⟩ | ⟨-, hdiv, hevents, -⟩
  · simp at hnone
  · refine ⟨u, if u.draw then [.render u.fb] else [], if s.div ≤ 1 ∧ u.st = 1 then [.beep] else [], hu, ?events,
      fun hi => if_pos (draw_of_exec_drawing hi hu hnone), fun hcls hdrw => if_neg ?quiet, rfl⟩
    case events =>
      simp only [endStep_of_fault_none s hnone, tick_events, render_events, render_div, render_st, hdiv, hevents,
        beginStep_div, beginStep_events]
    case quiet => simp [draw_of_exec_other hcls hdrw hu]

end Sys2Proof.Machine

/-! PROOFS. The display instructions (spec/41_display.md): 00E0 and DXYN. -/

namespace Sys2Proof.Machine

/-! ## 00E0 (R67) -/

/-- Settles O26: the state 00E0 answers is the clear framebuffer with the draw flag set, so its render is one event. -/
theorem clsClearsScreen : Obligations.ClsClearsScreen := fun _ =>
  ⟨_, rfl, cell_clear, rfl, rfl, rfl, fun _ => rfl, rfl⟩

/-! ## DXYN past the end of memory (spec/20_memory.md R38) -/

theorem exec_drw_outOfRange {s : State} (x y : Nibble) {n : Nibble} (hn : n ≠ 0) (h : 4096 < s.I.toNat + n.toNat) :
    exec (.drw x y n) s = .next (s.raiseMemOob (max s.I.toNat 4096)) := by
  have hpos : 0 < n.toNat := Nat.pos_of_ne_zero fun e => hn (BitVec.eq_of_toNat_eq e)
  simp only [exec, execDrw, loadBytes_error s hpos h]

/-- Settles O28: the load of the sprite's rows fails before anything is drawn. -/
theorem drwOutOfRangeIsFatal : Obligations.DrwOutOfRangeIsFatal := fun s x y _ hn h =>
  ⟨_, exec_drw_outOfRange x y hn h, raiseMemOob_isFatal s s.I⟩

/-! ## DXYN in memory (R68, R69) -/

/-- The `n` sprite bytes at `I`, top row first. -/
def State.spriteRows (s : State) (n : Nat) : List Byte := (List.range n).map fun k => s.readByte (s.I.toNat + k)

@[simp] theorem length_spriteRows (s : State) (n : Nat) : (s.spriteRows n).length = n := by
  simp [State.spriteRows]

@[simp] theorem getElem_spriteRows (s : State) (n row : Nat) (h : row < (s.spriteRows n).length) :
    (s.spriteRows n)[row] = s.readByte (s.I.toNat + row) := by
  simp [State.spriteRows]

/-- The pixels DXYN draws are those its set bits fall on (R69). -/
theorem mem_pixelsOfSprite_spriteRows {s : State} {x0 y0 : Byte} {n : Nat} {px : Fin 64} {py : Fin 32} :
    (px, py) ∈ pixelsOfSprite (s.spriteRows n) x0.toNat y0.toNat ↔ SpriteHits s x0 y0 n px py := by
  simp [mem_pixelsOfSprite, SpriteHits, spriteBit, wrapX, wrapY, Fin.ext_iff]

/-- What DXYN makes of the framebuffer, and the collision it finds. -/
def State.drawSprite (s : State) (x y n : Nibble) : Canvas :=
  plotSprite (s.spriteRows n.toNat) (s.reg x).toNat (s.reg y).toNat (s.fb, false)

theorem exec_drw_inRange {s : State} (x y : Nibble) {n : Nibble} (h : n = 0 ∨ s.I.toNat + n.toNat ≤ 4096) :
    exec (.drw x y n) s =
      .next ({ s with fb := (s.drawSprite x y n).1, draw := true }.setFlag (s.drawSprite x y n).2).advance := by
  have hload : s.loadBytes s.I.toNat n.toNat = .ok (s.spriteRows n.toNat) :=
    loadBytes_ok s (h.imp_left fun e => congrArg BitVec.toNat e)
  simp only [exec, execDrw, hload, State.drawSprite]

/-- No sprite is taller than the screen, so its pixels are all different and `plotSprite_spec` applies. -/
theorem length_spriteRows_le (s : State) (n : Nibble) : (s.spriteRows n.toNat).length ≤ 32 := by
  rw [length_spriteRows]
  omega

theorem drawSprite_cell (s : State) (x y n : Nibble) (px : Fin 64) (py : Fin 32) :
    (SpriteHits s (s.reg x) (s.reg y) n.toNat px py →
      Framebuffer.cell (s.drawSprite x y n).1 px py = !s.fb.cell px py) ∧
    (¬ SpriteHits s (s.reg x) (s.reg y) n.toNat px py →
      Framebuffer.cell (s.drawSprite x y n).1 px py = s.fb.cell px py) := by
  rw [State.drawSprite, (plotSprite_spec _ _ _ _ (length_spriteRows_le s n)).1, ← mem_pixelsOfSprite_spriteRows]
  exact ⟨fun hon => if_pos hon, fun hoff => if_neg hoff⟩

theorem drawSprite_collision (s : State) (x y n : Nibble) :
    (s.drawSprite x y n).2 = true ↔ SpriteCollides s (s.reg x) (s.reg y) n.toNat := by
  rw [State.drawSprite, (plotSprite_spec _ _ _ _ (length_spriteRows_le s n)).2, Prod.exists]
  simp only [mem_pixelsOfSprite_spriteRows, SpriteCollides]

@[simp] theorem reg_setFlag_same (s : State) (f : Bool) : (s.setFlag f).reg 0xF = flagByte f := reg_setReg_same s _ _

theorem reg_setFlag_other (s : State) {r : Nibble} (f : Bool) (h : r ≠ 0xF) : (s.setFlag f).reg r = s.reg r :=
  reg_setReg_other s _ h

/-- Settles O27: the cells and the collision are those of the sprite drawn, and VF alone of the registers is written. -/
theorem drwDrawsSprite : Obligations.DrwDrawsSprite := by
  intro s x y n h
  refine ⟨_, exec_drw_inRange x y h, drawSprite_cell s x y n, fun hit => ?hit, fun miss => ?miss, rfl, rfl,
    fun r hr => reg_setFlag_other _ _ hr, rfl, fun _ => rfl⟩
  case hit =>
    rw [advance_reg, reg_setFlag_same, (drawSprite_collision s x y n).mpr hit]
    rfl
  case miss =>
    rw [advance_reg, reg_setFlag_same, Bool.eq_false_iff.mpr (mt (drawSprite_collision s x y n).mp miss)]
    rfl

/-! ## DXYN twice (R70) -/

/-- Where a sprite falls depends on `I` and memory only. -/
theorem spriteHits_congr {s t : State} (hI : t.I = s.I) (hmem : SameBytes s t) (x0 y0 : Byte) (n : Nat) (px : Fin 64)
    (py : Fin 32) : SpriteHits t x0 y0 n px py ↔ SpriteHits s x0 y0 n px py := by
  simp only [SpriteHits, hI, hmem _]

/-- Settles O29: the second draw falls on the same pixels as the first (O27 for both), so each of them flips twice, and one
that the second draw finds set was clear before the first. -/
theorem drwTwiceRestoresScreen : Obligations.DrwTwiceRestoresScreen := by
  intro s t u x y n hx hy hin ht hu
  obtain ⟨t', ht', hcells, -, -, -, -, hregs, hframe, hmem⟩ := drwDrawsSprite s x y n hin
  obtain rfl : t' = t := Host.Outcome.next.inj (ht'.symm.trans ht)
  have hI : t'.I = s.I := by rw [hframe]
  obtain ⟨u', hu', hcells', hhit, hmiss, -⟩ := drwDrawsSprite t' x y n (by rwa [hI])
  obtain rfl : u' = u := Host.Outcome.next.inj (hu'.symm.trans hu)
  simp only [SpriteCollides, hregs x hx, hregs y hy, spriteHits_congr hI hmem] at hcells' hhit hmiss
  refine ⟨fun px py => ?restored, ?flag⟩
  case restored =>
    by_cases hit : SpriteHits s (s.reg x) (s.reg y) n.toNat px py
    · rw [(hcells' px py).1 hit, (hcells px py).1 hit, Bool.not_not]
    · rw [(hcells' px py).2 hit, (hcells px py).2 hit]
  case flag =>
    have hsecond : u'.reg 0xF = 1 ↔
        ∃ px py, SpriteHits s (s.reg x) (s.reg y) n.toNat px py ∧ t'.fb.cell px py = true :=
      ⟨fun hone => by_contra fun hno => absurd ((hmiss hno).symm.trans hone) (by decide), hhit⟩
    refine hsecond.trans (exists₂_congr fun px py => and_congr_right fun hit => ?_)
    rw [(hcells px py).1 hit, Bool.not_eq_true']

end Sys2Proof.Machine

/-! PROOFS. Control transfer (spec/42_control_flow.md): the jumps, the call, the return, and balanced runs of calls. -/

namespace Sys2Proof.Machine

/-! ## Jumps (R73, R75) -/

theorem immAddr_toNat (nnn : Imm12) : (immAddr nnn).toNat = nnn.toNat := by
  simp only [immAddr, BitVec.truncate_eq_setWidth, BitVec.toNat_setWidth]
  omega

theorem jump_onlyPcChanges (s : State) (a : Word) : OnlyPcChanges s (s.jump a) := ⟨rfl, fun _ => rfl⟩

/-- Settles O30: the jump is to `NNN` as a 16-bit address, and 4095 is past the last address a fetch can begin at. -/
theorem jumpSetsPc : Obligations.JumpSetsPc := by
  intro s nnn
  refine ⟨s.jump (immAddr nnn), rfl, immAddr_toNat nnn, jump_onlyPcChanges s _, fun hlast => (fetchIsBigEndian _).2 ?_⟩
  rw [jump_pc, immAddr_toNat]
  omega

/-- Settles O31: a byte and a 12-bit number add up to less than 65536, so the 16-bit sum does not wrap. -/
theorem jumpWithOffsetAddsV0 : Obligations.JumpWithOffsetAddsV0 := by
  intro s nnn
  refine ⟨s.jump (zext16 (s.reg 0) + immAddr nnn), rfl, ?_, jump_onlyPcChanges s _⟩
  rw [jump_pc, BitVec.toNat_add, zext16_toNat, immAddr_toNat]
  omega

/-! ## Call and return (R72, R74) -/

theorem exec_call_of_lt {s : State} (h : s.sp.val < 16) (nnn : Imm12) :
    exec (.call nnn) s = .next
      ({ s with stack := s.stack.set s.sp.val (s.pc + 2), sp := ⟨s.sp.val + 1, by omega⟩ }.jump (immAddr nnn)) := by
  rcases push_cases s (s.pc + 2) with ⟨hfull, -⟩ | ⟨_, hpush⟩
  · omega
  · simp only [exec, execCall, hpush]

theorem exec_call_of_full {s : State} (h : s.sp.val = 16) (nnn : Imm12) :
    exec (.call nnn) s = .next (s.raiseFatal .stackOverflow s.pc) := by
  rcases push_cases s (s.pc + 2) with ⟨-, hpush⟩ | ⟨hlt, -⟩
  · simp only [exec, execCall, hpush]
  · omega

theorem exec_ret_of_pos {s : State} (h : 0 < s.sp.val) :
    exec .ret s = .next ({ s with sp := ⟨s.sp.val - 1, by omega⟩ }.jump (s.stack[s.sp.val - 1]'(by omega))) := by
  rcases pop_cases s with ⟨hempty, -⟩ | ⟨_, hpop⟩
  · omega
  · simp only [exec, execRet, hpop]

/-- Settles O32: the state a call with room on the stack answers, read field by field. -/
theorem callPushesReturnAddress : Obligations.CallPushesReturnAddress := fun _ nnn h =>
  ⟨_, exec_call_of_lt h nnn, Vector.getElem_set_self h, fun _ hj hne => Vector.getElem_set_ne h hj hne.symm, rfl,
    immAddr_toNat nnn, rfl, fun _ => rfl⟩

/-- Settles O33: the state a return with an entry on the stack answers, read field by field. -/
theorem returnPopsIntoPc : Obligations.ReturnPopsIntoPc := fun _ h =>
  ⟨_, exec_ret_of_pos h, rfl, rfl, rfl, fun _ => rfl⟩

/-- A call that raised nothing fatal had room on the stack (R74). -/
theorem sp_lt_of_exec_call {s t : State} {nnn : Imm12} (h : exec (.call nnn) s = .next t) (hnone : t.fault = none) :
    s.sp.val < 16 := by
  by_contra hfull
  obtain rfl : s.raiseFatal .stackOverflow s.pc = t := by
    simpa [exec_call_of_full (show s.sp.val = 16 by omega)] using h
  simp at hnone

/-! ## Balanced calls (R76) -/

/-- The stack pointer and the live entries of `s` are in `t` as they were. -/
def LiveStackKept (s t : State) : Prop :=
  t.sp = s.sp ∧ ∀ j (_ : j < 16), j < s.sp.val → t.stack[j] = s.stack[j]

theorem LiveStackKept.refl (s : State) : LiveStackKept s s := ⟨rfl, fun _ _ _ => rfl⟩

theorem LiveStackKept.trans {s t u : State} (h : LiveStackKept s t) (h' : LiveStackKept t u) : LiveStackKept s u := by
  obtain ⟨hsp, hst⟩ := h
  obtain ⟨hsp', hst'⟩ := h'
  exact ⟨hsp'.trans hsp, fun j hj hlive => (hst' j hj (hsp ▸ hlive)).trans (hst j hj hlive)⟩

/-- Only calls and returns touch the stack (spec/10_state.md R17). -/
theorem liveStackKept_of_exec_plain {i : Instr} {s t : State} (hi : isPlainInstr i = true) (h : exec i s = .next t) :
    LiveStackKept s t := by
  cases effect_of_exec h with
  | ret | call => simp [isPlainInstr] at hi
  | _ => exact ⟨rfl, fun _ _ _ => rfl⟩

/-- A return that finds the stack as a call left it takes the call back: the entries below the pushed one were live in
between, and the pushed one, popped, is the address after the call. -/
theorem liveStackKept_of_call_ret {s t u w : State} {nnn : Imm12} (hcall : exec (.call nnn) s = .next t)
    (hnone : t.fault = none) (hbody : LiveStackKept t u) (hret : exec .ret u = .next w) :
    LiveStackKept s w ∧ w.pc = s.pc + 2 := by
  have hroom := sp_lt_of_exec_call hcall hnone
  obtain ⟨t', ht', htop, hrest, hsp, -⟩ := callPushesReturnAddress s nnn hroom
  obtain rfl : t' = t := by simpa [ht'] using hcall
  obtain ⟨hspu, hstu⟩ := hbody
  have hu : u.sp.val = s.sp.val + 1 := by rw [hspu, hsp]
  obtain rfl : _ = w := by simpa [exec_ret_of_pos (show 0 < u.sp.val by omega)] using hret
  refine ⟨⟨Fin.ext (by simp [hu]), fun j hj hlive => ?_⟩, ?_⟩
  · exact (hstu j hj (by omega)).trans (hrest j hj (by omega))
  · simpa [hu, htop] using hstu s.sp.val hroom (by omega)

theorem BalancedRun.liveStackKept {s t : State} (h : BalancedRun s t) : LiveStackKept s t := by
  induction h with
  | done s => exact .refl s
  | plain i s t u hi hexec _ _ ih => exact (liveStackKept_of_exec_plain hi hexec).trans ih
  | nested nnn s t u w z hcall hnone _ hret _ _ ihbody ihrest =>
    exact (liveStackKept_of_call_ret hcall hnone ihbody hret).1.trans ihrest

/-- Settles O35: by induction on the balanced run, with a matched call and return as one step. -/
theorem balancedCallsRestoreStack : Obligations.BalancedCallsRestoreStack := by
  refine ⟨fun _ _ hrun => hrun.liveStackKept, fun s t u w nnn hcall hnone hrun hret _ => ?_⟩
  obtain ⟨⟨hsp, -⟩, hpc⟩ := liveStackKept_of_call_ret hcall hnone hrun.liveStackKept hret
  exact ⟨hsp, hpc⟩

end Sys2Proof.Machine

/-! PROOFS. The conditional skips (spec/43_skip.md): on registers and immediates, on a key, and on a key that does not exist. -/

namespace Sys2Proof.Machine

/-! ## Skips on registers and immediates (R79 to R82) -/

/-- A skip moves `pc` alone, by 4 wherever its test answers true and by 2 wherever it answers false (R77). -/
theorem skipIf_skips (s : State) {c : Bool} {skips stays : Prop} (hskips : skips → c = true) (hstays : stays → c = false) :
    OnlyPcChanges s (s.skipIf c) ∧ (skips → (s.skipIf c).pc = s.pc + 4) ∧ (stays → (s.skipIf c).pc = s.pc + 2) :=
  ⟨jump_onlyPcChanges s _, fun h => by simp [hskips h], fun h => by simp [hstays h]⟩

/-- Settles O36: 3XNN tests with `==`, 4XNN with `!=`. -/
theorem skipsOnImmediate : Obligations.SkipsOnImmediate := fun s _ _ =>
  ⟨⟨_, rfl, skipIf_skips s beq_iff_eq.mpr beq_eq_false_iff_ne.mpr⟩,
    ⟨_, rfl, skipIf_skips s bne_iff_ne.mpr bne_eq_false_iff_eq.mpr⟩⟩

/-- Settles O37: 5XY0 tests with `==`, 9XY0 with `!=`. -/
theorem skipsOnRegisters : Obligations.SkipsOnRegisters := fun s _ _ =>
  ⟨⟨_, rfl, skipIf_skips s beq_iff_eq.mpr beq_eq_false_iff_ne.mpr⟩,
    ⟨_, rfl, skipIf_skips s bne_iff_ne.mpr bne_eq_false_iff_eq.mpr⟩⟩

/-! ## Skips on a key (R83 to R85) -/

/-- With a key of that number, the skip happens when its flag is the wanted one (R83, R84). -/
theorem skipOnKey_skips {s : State} {x : Nibble} (h : (s.reg x).toNat ≤ 15) (wanted : Bool) :
    OnlyPcChanges s (skipOnKey x wanted s) ∧
      (s.key.getLsbD (s.reg x).toNat = wanted → (skipOnKey x wanted s).pc = s.pc + 4) ∧
      (s.key.getLsbD (s.reg x).toNat = !wanted → (skipOnKey x wanted s).pc = s.pc + 2) := by
  have hkey : skipOnKey x wanted s = s.skipIf (s.key.getLsbD (s.reg x).toNat == wanted) := if_neg (Nat.not_lt.mpr h)
  rw [hkey]
  exact skipIf_skips s beq_iff_eq.mpr fun hother => by simp [hother]

/-- With no key of that number, the fatal condition carries the number (R85, spec/60_exceptions.md R119). -/
theorem skipOnKey_isFatal {s : State} {x : Nibble} (h : 15 < (s.reg x).toNat) (wanted : Bool) :
    IsFatal s (skipOnKey x wanted s) .keyOob (zext16 (s.reg x)) := by
  rw [skipOnKey, if_pos h]
  rfl

/-- Settles O38: EX9E wants the flag 1, EXA1 the flag 0. -/
theorem skipsOnKey : Obligations.SkipsOnKey := fun _ _ h =>
  ⟨⟨_, rfl, skipOnKey_skips h true⟩, ⟨_, rfl, skipOnKey_skips h false⟩⟩

/-- Settles O39: the number is refused whichever flag is wanted. -/
theorem keyNumberOutOfRangeIsFatal : Obligations.KeyNumberOutOfRangeIsFatal := fun s x h =>
  ⟨zext16 (s.reg x), zext16_toNat _, ⟨_, rfl, skipOnKey_isFatal h true⟩, ⟨_, rfl, skipOnKey_isFatal h false⟩⟩

end Sys2Proof.Machine

/-! PROOFS. Register load, arithmetic, logic, shifts and the random byte (spec/44_alu.md). -/

namespace Sys2Proof.Machine

/-! ## One destination, no flag (R88 to R93) -/

theorem setReg_onlyRegChanges (s : State) (x : Nibble) (b : Byte) : OnlyRegChanges s (s.setReg x b).advance x :=
  ⟨⟨rfl, fun _ => rfl⟩, fun _ hr => reg_setReg_other s b hr⟩

/-- Settles O40: the byte written is `NN`. -/
theorem loadImmediate : Obligations.LoadImmediate := fun s x nn =>
  ⟨_, rfl, reg_setReg_same s x nn, rfl, setReg_onlyRegChanges s x _⟩

/-- Settles O41: the byte written is the 8-bit sum. -/
theorem addImmediateWithoutCarry : Obligations.AddImmediateWithoutCarry := by
  intro s x nn
  refine ⟨_, rfl, ?_, rfl, setReg_onlyRegChanges s x _⟩
  rw [advance_reg, reg_setReg_same, BitVec.toNat_add]

/-- Settles O42: the byte written is the old `V[Y]`. -/
theorem assignRegister : Obligations.AssignRegister := fun s x _ =>
  ⟨_, rfl, reg_setReg_same s x _, rfl, setReg_onlyRegChanges s x _⟩

/-- A byte that has the bits `bits`, written to one register, is what that register's bits are afterwards. -/
theorem setReg_bits (s : State) (x : Nibble) {b : Byte} {bits : Nat → Bool} (hb : ∀ k, b.getLsbD k = bits k) :
    OnlyRegChanges s (s.setReg x b).advance x ∧ ∀ k, k < 8 → ((s.setReg x b).advance.reg x).getLsbD k = bits k :=
  ⟨setReg_onlyRegChanges s x b, fun k _ => by rw [advance_reg, reg_setReg_same, hb]⟩

/-- Settles O43: the bits of the byte written are those of the bitwise operation. -/
theorem logicLeavesFlagAlone : Obligations.LogicLeavesFlagAlone := fun s x _ =>
  ⟨⟨_, rfl, rfl, setReg_bits s x fun _ => BitVec.getLsbD_or⟩,
    ⟨_, rfl, rfl, setReg_bits s x fun _ => BitVec.getLsbD_and⟩,
    ⟨_, rfl, rfl, setReg_bits s x fun _ => BitVec.getLsbD_xor⟩⟩

/-! ## The flags as numbers (R86) -/

theorem toNat_flagByte (f : Bool) : (flagByte f).toNat = f.toNat := by
  cases f <;> rfl

theorem toNat_carryOut (a b : Byte) : (carryOut a b).toNat = if 255 < a.toNat + b.toNat then 1 else 0 :=
  Bool.cond_decide _ _ _

theorem toNat_noBorrow (a b : Byte) : (noBorrow a b).toNat = if b.toNat ≤ a.toNat then 1 else 0 :=
  Bool.cond_decide _ _ _

theorem toNat_evictedRight (a : Byte) : (evictedRight a).toNat = a.toNat % 2 := by
  have hbit : (evictedRight a).toNat = a.toNat / 2 ^ 0 % 2 := Nat.toNat_testBit a.toNat 0
  omega

/-- Bit 7 is the top bit of a byte, so nothing is left above it. -/
theorem toNat_evictedLeft (a : Byte) : (evictedLeft a).toNat = a.toNat / 128 := by
  have hbit : (evictedLeft a).toNat = a.toNat / 2 ^ 7 % 2 := Nat.toNat_testBit a.toNat 7
  omega

/-! ## Result first, flag second (R87, R94 to R98) -/

section
variable (s : State) {x : Nibble} {b : Byte} {f : Bool}

theorem toNat_reg_setResultAndFlag_flag {n : Nat} (hflag : f.toNat = n) :
    ((s.setResultAndFlag x b f).advance.reg 0xF).toNat = n := by
  rw [advance_reg, reg_setResultAndFlag, if_pos rfl, toNat_flagByte, hflag]

theorem reg_setResultAndFlag_result (hx : x ≠ 0xF) : (s.setResultAndFlag x b f).advance.reg x = b := by
  rw [advance_reg, reg_setResultAndFlag, if_neg hx, if_pos rfl]

theorem setResultAndFlag_onlyResultAndFlagChange :
    OnlyResultAndFlagChange s (s.setResultAndFlag x b f).advance x := by
  refine ⟨⟨rfl, fun _ => rfl⟩, fun r hr hrF => ?_⟩
  rw [advance_reg, reg_setResultAndFlag, if_neg hrF, if_neg hr]

end

/-- Settles O44: the flag is the carry, the result the 8-bit sum. -/
theorem addSetsCarry : Obligations.AddSetsCarry := by
  intro s x y
  refine ⟨_, rfl, toNat_reg_setResultAndFlag_flag s (toNat_carryOut _ _), fun hx => ?_, rfl,
    setResultAndFlag_onlyResultAndFlagChange s⟩
  rw [reg_setResultAndFlag_result s hx, BitVec.toNat_add]

/-- The 8-bit difference is the true one modulo 256, a negative one included. -/
theorem toNat_sub_emod (a b : Byte) : ((a - b).toNat : Int) = (a.toNat - b.toNat : Int) % 256 := by
  rw [BitVec.toNat_sub]
  omega

/-- `a - b` as the result and its no-borrow flag are what R95 and R97 ask, whichever operand is `V[X]`. -/
theorem subtract_spec (s : State) (x : Nibble) (a b : Byte) :
    let t := (s.setResultAndFlag x (a - b) (noBorrow a b)).advance
    (t.reg 0xF).toNat = (if b.toNat ≤ a.toNat then 1 else 0) ∧
      (x ≠ 0xF → ((t.reg x).toNat : Int) = (a.toNat - b.toNat : Int) % 256) ∧
      t.pc = s.pc + 2 ∧ OnlyResultAndFlagChange s t x := by
  refine ⟨toNat_reg_setResultAndFlag_flag s (toNat_noBorrow a b), fun hx => ?_, rfl,
    setResultAndFlag_onlyResultAndFlagChange s⟩
  rw [reg_setResultAndFlag_result s hx, toNat_sub_emod]

/-- Settles O45: 8XY5 subtracts `V[Y]` from `V[X]`, 8XY7 the other way round. -/
theorem subtractSetsNoBorrow : Obligations.SubtractSetsNoBorrow := fun s x y =>
  ⟨⟨_, rfl, subtract_spec s x (s.reg x) (s.reg y)⟩, ⟨_, rfl, subtract_spec s x (s.reg y) (s.reg x)⟩⟩

/-- Settles O46: the flag is the bit the shift evicts, the result the shifted byte. -/
theorem shiftsEvictIntoFlag : Obligations.ShiftsEvictIntoFlag := by
  intro s x y
  refine ⟨⟨_, rfl, toNat_reg_setResultAndFlag_flag s (toNat_evictedRight _), fun hx => ?right, rfl,
      setResultAndFlag_onlyResultAndFlagChange s⟩,
    ⟨_, rfl, toNat_reg_setResultAndFlag_flag s (toNat_evictedLeft _), fun hx => ?left, rfl,
      setResultAndFlag_onlyResultAndFlagChange s⟩⟩
  case right => rw [reg_setResultAndFlag_result s hx, BitVec.toNat_ushiftRight, Nat.shiftRight_one]
  case left => rw [reg_setResultAndFlag_result s hx, BitVec.toNat_shiftLeft, Nat.shiftLeft_eq, pow_one]

/-! ## The random byte (R99) -/

/-- Settles O47: the byte written is the masked input, whatever the input is, and drawing the next one writes no register. -/
theorem randomByteIsMasked : Obligations.RandomByteIsMasked := fun s x _ =>
  ⟨_, rfl, reg_setReg_same s x _, rfl, fun _ hr => reg_setReg_other s _ hr, rfl, rfl, fun _ => rfl⟩

end Sys2Proof.Machine

/-! PROOFS. Index register and memory instructions (spec/45_index_memory.md): what `I` becomes, and the bytes FX33, FX55 and
FX65 move when their addresses are in memory. -/

namespace Sys2Proof.Machine

/-! ## The index register (R101 to R103) -/

/-- The largest glyph number gives 255 * 5 = 1275, so the 16-bit product does not wrap. -/
theorem glyphAddr_toNat (b : Byte) : (glyphAddr b).toNat = b.toNat * 5 := by
  rw [glyphAddr, BitVec.toNat_mul, zext16_toNat, show (5 : Word).toNat = 5 from rfl]
  omega

theorem setIndex_onlyIndexChanges (s : State) (a : Word) : OnlyIndexChanges s { s with I := a }.advance :=
  ⟨rfl, fun _ => rfl⟩

/-- Settles O48: the three words `I` is set to, as numbers. -/
theorem indexRegisterIsComputed : Obligations.IndexRegisterIsComputed := by
  intro s x nnn
  have hsum : (s.I + zext16 (s.reg x)).toNat = (s.I.toNat + (s.reg x).toNat) % 65536 := by
    rw [BitVec.toNat_add, zext16_toNat]
  exact ⟨⟨_, rfl, immAddr_toNat nnn, rfl, setIndex_onlyIndexChanges s _⟩,
    ⟨_, rfl, hsum, rfl, setIndex_onlyIndexChanges s _⟩,
    ⟨_, rfl, glyphAddr_toNat (s.reg x), rfl, setIndex_onlyIndexChanges s _⟩⟩

/-! ## Stores at `I` (R104, R105) -/

/-- A store whose addresses are all in memory, then `pc + 2`: its bytes are there, and nothing else changes. -/
theorem storeBytes_advance_of_inRange (s : State) {a : Nat} {bs : List Byte} (h : a + bs.length ≤ 4096) :
    ∃ t, s.storeBytes a bs = .ok t ∧ (∀ k (hk : k < bs.length), t.advance.readByte (a + k) = bs[k]) ∧
      t.advance.pc = s.pc + 2 ∧ OnlyBytesChange s t.advance a bs.length := by
  rcases storeBytes_cases s a bs with ⟨-, hout, -⟩ | ⟨-, t, hstore, hframe, hinside, houtside, -⟩
  · omega
  · refine ⟨t, hstore, hinside, ?_, ?_, houtside⟩ <;> rw [hframe] <;> rfl

/-- Below 256, the byte loses nothing of the number it is built from. -/
theorem toNat_of_eq_ofNat {b : Byte} {n : Nat} (hb : b = BitVec.ofNat 8 n) (hn : n < 256) : b.toNat = n := by
  rw [hb, BitVec.toNat_ofNat, Nat.mod_eq_of_lt hn]

/-- Settles O50: each of the three digits is below 256, so the byte stored for it holds it whole. -/
theorem decimalDigitsAreStored : Obligations.DecimalDigitsAreStored := by
  intro s x hin
  have hlen : (decimalDigits (s.reg x)).length = 3 := rfl
  obtain ⟨t, hstore, hbytes, hpc, hframe⟩ :=
    storeBytes_advance_of_inRange s (a := s.I.toNat) (bs := decimalDigits (s.reg x)) (by omega)
  refine ⟨t.advance, by simp only [exec, execLdB, hstore], ?hundreds, ?tens, ?ones, hpc, hframe⟩
  case hundreds => exact toNat_of_eq_ofNat (hbytes 0 (by omega)) (by omega)
  case tens => exact toNat_of_eq_ofNat (hbytes 1 (by omega)) (by omega)
  case ones => exact toNat_of_eq_ofNat (hbytes 2 (by omega)) (by omega)

/-- Settles O51: the store of `V0..VX`, whose bytes `readByte_of_exec_storeRegs` reads back. -/
theorem registersAreStored : Obligations.RegistersAreStored := by
  intro s x hin
  have hlen := length_firstRegs s x
  obtain ⟨t, hstore, -, hpc, hframe⟩ :=
    storeBytes_advance_of_inRange s (a := s.I.toNat) (bs := s.firstRegs (regCount x)) (by omega)
  have hexec : exec (.storeRegs x) s = .next t.advance := by simp only [exec, execStoreRegs, hstore]
  exact ⟨t.advance, hexec, fun _ hk => readByte_of_exec_storeRegs hin hexec hk, hpc, hlen ▸ hframe⟩

/-! ## Loads from `I` (R106) -/

/-- Loaded from V0 on, register `k` is the `k`th byte where there is one, and stays otherwise. -/
theorem reg_writeRegs (s : State) (bs : List Byte) (k : Nibble) :
    State.reg { s with v := writeRegs s.v 0 bs } k = if h : k.toNat < bs.length then bs[k.toNat] else s.reg k := by
  simp [State.reg, writeRegs_getElem]

theorem exec_loadRegs_inRange {s : State} {x : Nibble} (h : s.I.toNat + x.toNat ≤ 4095) :
    exec (.loadRegs x) s = .next { s with
      v := writeRegs s.v 0 ((List.range (regCount x)).map fun k => s.readByte (s.I.toNat + k)) }.advance := by
  simp only [exec, execLoadRegs, loadBytes_ok s (n := regCount x) (.inr (show s.I.toNat + (x.toNat + 1) ≤ 4096 by omega))]

/-- Settles O52: the byte list has an entry for `k` exactly when `k` is at most `X`. -/
theorem registersAreLoaded : Obligations.RegistersAreLoaded := by
  intro s x hin
  refine ⟨_, exec_loadRegs_inRange hin, fun k hk => ?loaded, fun k hk => ?kept, rfl, rfl, fun _ => rfl⟩ <;>
    rw [advance_reg, reg_writeRegs]
  case loaded =>
    have hk : k.toNat < regCount x := Nat.lt_succ_of_le hk
    simp [hk]
  case kept =>
    have hk : ¬ k.toNat < regCount x := Nat.not_lt_of_ge hk
    simp [hk]

/-- Settles O54: between the two, `I` and memory are as FX55 left them, so FX65 loads the bytes FX55 stored. -/
theorem storeThenLoadRestoresRegisters : Obligations.StoreThenLoadRestoresRegisters := by
  intro s t u w x hin hstore hu hload k hk
  obtain ⟨t', ht', hstored, -, hframe, -⟩ := registersAreStored s x hin
  obtain rfl : t' = t := Host.Outcome.next.inj (ht'.symm.trans hstore)
  have hI : u.I = s.I := by rw [hu, hframe]
  obtain ⟨w', hw', hloaded, -⟩ := registersAreLoaded u x (by rwa [hI])
  obtain rfl : w' = w := Host.Outcome.next.inj (hw'.symm.trans hload)
  calc w'.reg k = u.readByte (s.I.toNat + k.toNat) := hI ▸ hloaded k hk
    _ = t'.readByte (s.I.toNat + k.toNat) := by rw [hu]; rfl
    _ = s.reg k := hstored k hk

end Sys2Proof.Machine

/-! PROOFS. The timer instructions and the start of a key wait (spec/46_timer_key.md). -/

namespace Sys2Proof.Machine

/-! ## Timers (R109 to R111) -/

/-- Settles O56: FX07 is the register write of `dt`; FX15 and FX18 each write one timer, which no other field and no byte of
memory depends on. -/
theorem timersAreReadAndWritten : Obligations.TimersAreReadAndWritten := fun s x =>
  ⟨⟨_, rfl, reg_setReg_same s x s.dt, rfl, setReg_onlyRegChanges s x _⟩,
    ⟨_, rfl, rfl, rfl, rfl, fun _ => rfl⟩,
    ⟨_, rfl, rfl, rfl, rfl, fun _ => rfl⟩⟩

/-! ## The key wait (R112) -/

/-- Settles O57: FX0A sets the wait and its target without a look at the key flags, and writes no register. -/
theorem keyWaitBegins : Obligations.KeyWaitBegins := fun _ _ =>
  ⟨_, rfl, rfl, rfl, rfl, rfl, fun _ => rfl⟩

end Sys2Proof.Machine

/-! PROOFS. Exceptional conditions, timers and input (spec/60_exceptions.md): where each fatal condition comes from, the decode
fault, the divider and its two timers, and the key that ends a wait. -/

namespace Sys2Proof.Machine

/-! ## The sources of fatal conditions (R114, R116 to R119) -/

/-- The table of R114 for the execute part: which instruction raises what, in which state, with which datum. -/
inductive Raises (s : State) : Instr → FaultRecord → Prop where
  | call (nnn : Imm12) (hfull : s.sp.val = 16) : Raises s (.call nnn) ⟨.stackOverflow, s.pc⟩
  | ret (hempty : s.sp.val = 0) : Raises s .ret ⟨.stackUnderflow, s.pc⟩
  | draw (x y n : Nibble) : Raises s (.drw x y n) ⟨.memOob, BitVec.ofNat 16 (max s.I.toNat 4096)⟩
  | transfer (i : Instr) (x : Nibble) (hi : i = .ldB x ∨ i = .storeRegs x ∨ i = .loadRegs x) :
      Raises s i ⟨.memOob, BitVec.ofNat 16 (max s.I.toNat 4096)⟩
  | key (i : Instr) (x : Nibble) (hi : i = .skp x ∨ i = .sknp x) (hbig : 15 < (s.reg x).toNat) :
      Raises s i ⟨.keyOob, zext16 (s.reg x)⟩

/-- The latch of `t` is as in `s`, or holds what the table of R114 gives the instruction. -/
def FaultKeptOrRaised (s : State) (i : Instr) (t : State) : Prop :=
  t.fault = s.fault ∨ ∃ f, Raises s i f ∧ t.fault = some f

theorem skipOnKey_faultKeptOrRaised (s : State) (i : Instr) (x : Nibble) (wanted : Bool)
    (hi : i = .skp x ∨ i = .sknp x) : FaultKeptOrRaised s i (skipOnKey x wanted s) := by
  unfold skipOnKey
  split
  case isTrue hbig => exact .inr ⟨_, .key i x hi hbig, rfl⟩
  case isFalse => exact .inl rfl

theorem exec_ret_of_empty {s : State} (h : s.sp.val = 0) : exec .ret s = .next (s.raiseFatal .stackUnderflow s.pc) := by
  rcases pop_cases s with ⟨-, hpop⟩ | ⟨hpos, -⟩
  · simp only [exec, execRet, hpop]
  · omega

/-- The table of R114 is complete: no execute part writes anything else into the latch. -/
theorem exec_faultKeptOrRaised (i : Instr) (s : State) : ∃ t, exec i s = .next t ∧ FaultKeptOrRaised s i t := by
  cases i with
  | call nnn =>
    rcases Nat.lt_or_eq_of_le (Nat.le_of_lt_succ s.sp.isLt) with hroom | hfull
    · exact ⟨_, exec_call_of_lt hroom nnn, .inl rfl⟩
    · exact ⟨_, exec_call_of_full hfull nnn, .inr ⟨_, .call nnn hfull, rfl⟩⟩
  | ret =>
    rcases Nat.eq_zero_or_pos s.sp.val with hempty | hpos
    · exact ⟨_, exec_ret_of_empty hempty, .inr ⟨_, .ret hempty, rfl⟩⟩
    · exact ⟨_, exec_ret_of_pos hpos, .inl rfl⟩
  | drw x y n =>
    by_cases hin : n = 0 ∨ s.I.toNat + n.toNat ≤ 4096
    · exact ⟨_, exec_drw_inRange x y hin, .inl rfl⟩
    · obtain ⟨hn, hout⟩ := not_or.mp hin
      exact ⟨_, exec_drw_outOfRange x y hn (Nat.lt_of_not_le hout), .inr ⟨_, .draw x y n, rfl⟩⟩
  | ldB x =>
    rcases Nat.lt_or_ge 4095 (s.I.toNat + 2) with hout | hin
    · exact ⟨_, exec_ldB_outOfRange x hout, .inr ⟨_, .transfer _ x (.inl rfl), rfl⟩⟩
    · obtain ⟨t, ht, -, -, -, -, hframe, -⟩ := decimalDigitsAreStored s x hin
      exact ⟨t, ht, .inl (by rw [hframe])⟩
  | storeRegs x =>
    rcases Nat.lt_or_ge 4095 (s.I.toNat + x.toNat) with hout | hin
    · exact ⟨_, exec_storeRegs_outOfRange hout, .inr ⟨_, .transfer _ x (.inr (.inl rfl)), rfl⟩⟩
    · obtain ⟨t, ht, -, -, hframe, -⟩ := registersAreStored s x hin
      exact ⟨t, ht, .inl (by rw [hframe])⟩
  | loadRegs x =>
    rcases Nat.lt_or_ge 4095 (s.I.toNat + x.toNat) with hout | hin
    · exact ⟨_, exec_loadRegs_outOfRange hout, .inr ⟨_, .transfer _ x (.inr (.inr rfl)), rfl⟩⟩
    · exact ⟨_, exec_loadRegs_inRange hin, .inl rfl⟩
  | skp x => exact ⟨_, rfl, skipOnKey_faultKeptOrRaised s _ x true (.inl rfl)⟩
  | sknp x => exact ⟨_, rfl, skipOnKey_faultKeptOrRaised s _ x false (.inr rfl)⟩
  | _ => exact ⟨_, rfl, .inl rfl⟩

theorem toNat_memOob_datum (a : Word) : (BitVec.ofNat 16 (max a.toNat 4096)).toNat = max a.toNat 4096 := by
  rw [BitVec.toNat_ofNat]
  omega

/-- Settles O19: the latch was empty before the execute part, so its content is an entry of the table. -/
theorem fatalCausesAreTheTables : Obligations.FatalCausesAreTheTables := by
  intro s t i f hnone h hfault
  obtain ⟨u, hu, hcases⟩ := exec_faultKeptOrRaised i s
  obtain rfl : u = t := Host.Outcome.next.inj (hu.symm.trans h)
  rcases hcases with hkept | ⟨g, hraises, hg⟩
  · simp [hkept, hnone] at hfault
  · obtain rfl : g = f := Option.some.inj (hg.symm.trans hfault)
    cases hraises with
    | call nnn hfull => exact ⟨⟨nnn, rfl⟩, hfull, rfl⟩
    | ret hempty => exact ⟨rfl, hempty, rfl⟩
    | draw x y n => exact ⟨.inl ⟨x, y, n, rfl⟩, toNat_memOob_datum s.I⟩
    | transfer _ x hi => exact ⟨.inr ⟨x, hi⟩, toNat_memOob_datum s.I⟩
    | key _ x hi hbig => exact ⟨x, hi, hbig, zext16_toNat _⟩

/-- Settles O34: both answer with `raiseFatal`, whose frame is that of `IsFatal`. -/
theorem stackLimitsAreFatal : Obligations.StackLimitsAreFatal :=
  ⟨fun _ nnn hfull => ⟨_, exec_call_of_full hfull nnn, rfl⟩, fun _ hempty => ⟨_, exec_ret_of_empty hempty, rfl⟩⟩

/-! ## The decode fault (R115) -/

/-- Without the draw flag there is nothing to render (spec/40_step_cycle.md R60). -/
theorem render_of_not_draw {s : State} (h : s.draw = false) : s.render = s := by
  simp [State.render, h]

/-- A Running step on an unrecognised word reports it and goes on to its tick; there is nothing to render. -/
theorem step_of_unrecognised {s : State} {w : Word} {e : Reject} (hf : s.fault = none) (hw : s.waitActive = false)
    (hfetch : s.fetch = .ok w) (hdec : decode w = .error e) : step s = .next (s.beginStep.decodeFault w).tick := by
  have hend : s.endStep (s.beginStep.decodeFault w) = (s.beginStep.decodeFault w).tick := by
    rw [endStep_of_fault_none s ((decodeFault_fault s.beginStep w).trans hf),
      render_of_not_draw (decodeFault_draw s.beginStep w)]
  simp only [step, control_running.mpr ⟨hf, hw⟩, hfetch, hdec, hend]

/-- Settles O9: the tick that ends the step keeps the latch, the wait and the events before it. -/
theorem decodeFaultIsReportedAndSurvived : Obligations.DecodeFaultIsReportedAndSurvived := by
  intro s w e hf hw hfetch hdec
  refine ⟨_, step_of_unrecognised hf hw hfetch hdec, rfl, rfl, hf, hw, ?reported, fun _ => rfl⟩
  exact (tick_hostSideKept _).events.subset (List.mem_append_right _ (List.mem_singleton_self _))

/-! ## The divider and the timers (R125, R126) -/

/-- The floor at 0 (R125) is that of subtraction on natural numbers. -/
theorem timer_countdown (b : Byte) : (if b = 0 then 0 else b - 1) = BitVec.ofNat 8 (b.toNat - 1) := by
  split
  case isTrue hzero => rw [hzero]; rfl
  case isFalse hpos =>
    have : b.toNat ≠ 0 := fun e => hpos (BitVec.eq_of_toNat_eq e)
    bv_omega

/-- Settles O16: the two things a tick can do, with timers as numbers. -/
theorem tickCountsDown : Obligations.TickCountsDown := by
  intro s
  rcases tick_cases s with ⟨hle, htick⟩ | ⟨hge, htick⟩
  · have hbeep : s.st = 1 ↔ s.st.toNat = 1 := BitVec.toNat_inj.symm
    exact ⟨fun h => by omega, fun _ => by simp only [htick, timer_countdown, hbeep]⟩
  · exact ⟨fun _ => htick, fun h => by omega⟩

/-- Until the divider reaches 1, ticks only count it down. -/
theorem tick_iterate_of_lt (s : State) {n : Nat} (h : n < s.div) : State.tick^[n] s = { s with div := s.div - n } := by
  induction n with
  | zero => rfl
  | succ n ih =>
    rw [Function.iterate_succ_apply', ih (by omega)]
    exact (tickCountsDown _).1 (show 2 ≤ s.div - n by omega)

/-- What a whole period of the divider does: the timers go down once, with the beep of that tick. -/
def State.afterPeriod (s : State) : State :=
  { s with
    dt := BitVec.ofNat 8 (s.dt.toNat - 1)
    st := BitVec.ofNat 8 (s.st.toNat - 1)
    events := s.events ++ if s.st.toNat = 1 then [.beep] else [] }

theorem toNat_afterPeriod_dt (s : State) : s.afterPeriod.dt.toNat = s.dt.toNat - 1 := toNat_of_eq_ofNat rfl (by omega)

theorem toNat_afterPeriod_st (s : State) : s.afterPeriod.st.toNat = s.st.toNat - 1 := toNat_of_eq_ofNat rfl (by omega)

/-- The last tick of a period reloads the divider, which is then where it began (spec/92_eei_decisions.md D2). -/
theorem tick_iterate_period {s : State} (hpos : 1 ≤ s.params.tickDivider) (hdiv : s.div = s.params.tickDivider) :
    State.tick^[s.params.tickDivider] s = s.afterPeriod := by
  obtain ⟨n, hn⟩ : ∃ n, s.params.tickDivider = n + 1 := ⟨_, (Nat.sub_add_cancel hpos).symm⟩
  rw [hn, Function.iterate_succ_apply', tick_iterate_of_lt s (by omega),
    (tickCountsDown _).2 (show s.div - n = 1 by omega), ← hdiv]
  rfl

/-- A sound timer that runs out within `k + 1` periods beeps in the first of them or in the `k` after it, never in both. -/
theorem beep_once (n k : Nat) :
    ((if n = 1 then [Event.beep] else []) ++ if 1 ≤ n - 1 ∧ n - 1 ≤ k then [Event.beep] else []) =
      if 1 ≤ n ∧ n ≤ k + 1 then [.beep] else [] := by
  by_cases hone : n = 1
  · simp [hone]
  · have hlater : (1 ≤ n - 1 ∧ n - 1 ≤ k) ↔ (1 ≤ n ∧ n ≤ k + 1) := by omega
    simp only [if_neg hone, hlater, List.nil_append]

/-- Settles O17, by induction on the periods, the first of them split off. -/
theorem timersDecayToZero : Obligations.TimersDecayToZero := by
  intro k
  induction k with
  | zero =>
    intro s _ hdiv
    have hnone : ¬ (1 ≤ s.st.toNat ∧ s.st.toNat ≤ 0) := by omega
    simp only [Nat.zero_mul, Function.iterate_zero_apply, Nat.sub_zero, hdiv, if_neg hnone, List.append_nil, and_self]
  | succ k ih =>
    intro s hpos hdiv
    obtain ⟨hdt, hst, hdiv', hevents⟩ := ih s.afterPeriod hpos hdiv
    rw [Nat.succ_mul, Function.iterate_add_apply, tick_iterate_period hpos hdiv]
    rw [toNat_afterPeriod_dt] at hdt
    rw [toNat_afterPeriod_st] at hst hevents
    refine ⟨hdt.trans (by omega), hst.trans (by omega), hdiv', hevents.trans ?_⟩
    rw [← beep_once, ← List.append_assoc]
    rfl

/-! ## Input (R128) -/

/-- With no wait to end, or no key to end it, the input only sets the key flags. -/
theorem applyInput_of_not_released {s : State} {mask : BitVec 16} (hf : s.fault = none)
    (h : s.waitActive = false ∨ mask = 0) : applyInput mask s = { s with key := mask } := by
  rcases h with hwait | hmask
  · simp [applyInput, hf, hwait]
  · simp [applyInput, hf, lowestKey_eq_none.mpr hmask]

/-- A wait ends with the lowest key of the input in its target register. -/
theorem applyInput_of_released {s : State} {mask : BitVec 16} {k : Nat} (hf : s.fault = none)
    (hwait : s.waitActive = true) (hk : lowestKey mask = some k) :
    applyInput mask s =
      { ({ s with key := mask }.setReg s.waitReg (BitVec.ofNat 8 k)) with waitActive := false } := by
  simp [applyInput, hf, hwait, hk]

theorem applyInput_key {s : State} (mask : BitVec 16) (hf : s.fault = none) : (applyInput mask s).key = mask := by
  by_cases h : s.waitActive = false ∨ mask = 0
  · rw [applyInput_of_not_released hf h]
  · obtain ⟨hwait, hmask⟩ := not_or.mp h
    obtain ⟨k, hk⟩ := Option.ne_none_iff_exists'.mp (mt lowestKey_eq_none.mp hmask)
    rw [applyInput_of_released hf (Bool.not_eq_false _ ▸ hwait) hk]
    rfl

/-- Settles O58: the lowest key of a mask is the one the third clause names. -/
theorem applyInputReleasesWait : Obligations.ApplyInputReleasesWait := by
  intro s mask hf
  refine ⟨fun k _ => by rw [applyInput_key mask hf], applyInput_of_not_released hf, fun k hwait hlt hdown hlowest => ?_⟩
  rw [applyInput_of_released hf hwait (lowestKey_eq_some.mpr ⟨hlt, hdown, hlowest⟩)]
  exact ⟨toNat_of_eq_ofNat (reg_setReg_same { s with key := mask } _ _) (by omega),
    fun r hr => reg_setReg_other { s with key := mask } _ hr, rfl⟩

end Sys2Proof.Machine

/-! PROOFS. Reset and program load (spec/70_reset_and_hazards.md): what LoadProgram writes, and that the host's operations
keep the invariant. -/

namespace Sys2Proof.Machine

/-! ## LoadProgram (R136) -/

theorem length_append_sentinel (bytes : List Byte) : (bytes ++ bytesOfWord sentinel).length = bytes.length + 2 :=
  List.length_append

/-- From 0x200 on there are 3584 addresses, two of them for the sentinel. -/
theorem loadProgram_of_fits {s : State} {bytes : List Byte} (hf : s.fault = none) (hfits : bytes.length ≤ 3582) :
    loadProgram bytes s =
      { s with mem := Memory.writeBytes s.params.font s.mem 0x200 (bytes ++ bytesOfWord sentinel) } := by
  have hlen := length_append_sentinel bytes
  have hstore := storeBytes_ok s (a := 0x200) (bs := bytes ++ bytesOfWord sentinel) (by omega)
  simp [loadProgram, hf, hstore]

/-- The lowest offending address is 4096, whatever the length (spec/92_eei_decisions.md D19). -/
theorem loadProgram_of_tooLong {s : State} {bytes : List Byte} (hf : s.fault = none) (hlong : 3582 < bytes.length) :
    loadProgram bytes s = s.raiseMemOob 4096 := by
  have hlen := length_append_sentinel bytes
  have hstore := storeBytes_error s (a := 0x200) (bs := bytes ++ bytesOfWord sentinel) (by omega) (by omega)
  simp [loadProgram, hf, hstore]

/-- Settles O60: image and sentinel are one run of stored bytes, and the sentinel's two are its last. -/
theorem loadProgramPlacesImage : Obligations.LoadProgramPlacesImage := by
  intro s bytes hf
  have hlen := length_append_sentinel bytes
  refine ⟨fun hfits => ?placed, fun hlong => ?refused⟩
  case placed =>
    rw [loadProgram_of_fits hf hfits]
    have hinside := read_writeBytes_inside s.params.font s.mem 0x200 (bytes ++ bytesOfWord sentinel)
    refine ⟨fun k hk => ?image, ?high, ?low, fun a ha => ?outside, rfl⟩
    case image => exact (hinside k (by omega)).trans (List.getElem_append_left hk)
    case high => exact (hinside bytes.length (by omega)).trans (by simp [bytesOfWord, highByte, sentinel])
    case low => exact (hinside (bytes.length + 1) (by omega)).trans (by simp [bytesOfWord, lowByte, sentinel])
    case outside => exact read_writeBytes_outside _ _ _ _ a (by omega)
  case refused =>
    rw [loadProgram_of_tooLong hf hlong]
    rfl

/-! ## The invariant (R135, R136, spec/60_exceptions.md R128) -/

/-- What Reset keeps of the random source is not in the invariant (notes/assumptions/9.md). -/
theorem hostReset_inv {s : State} (hs : s.Inv) : (hostReset s).Inv :=
  have hreset := resetWith_inv s.params (hs.dividerPos.trans hs.dividerLe)
  ⟨hreset.memory, hreset.dividerPos, hreset.dividerLe, hreset.reported, hreset.explained⟩

theorem loadProgram_inv {s : State} (hs : s.Inv) (bytes : List Byte) : (loadProgram bytes s).Inv := by
  by_cases hf : s.fault = none
  · rcases Nat.lt_or_ge 3582 bytes.length with hlong | hfits
    · rw [loadProgram_of_tooLong hf hlong]
      exact raiseFatal_inv hf hs (memOob_explains s 4096)
    · rw [loadProgram_of_fits hf hfits]
      have hin : 0x200 + (bytes ++ bytesOfWord sentinel).length ≤ memSize := by
        rw [length_append_sentinel, memSize]
        omega
      exact ⟨writeBytes_wf _ _ _ _ hin hs.memory, hs.dividerPos, hs.dividerLe, hs.reported, hs.explained⟩
  · rwa [(faultedMachineIsFrozen s hf).2.2]

/-- An input writes only the key flags, the wait and its target register. -/
theorem applyInput_frame (mask : BitVec 16) (s : State) :
    ∃ v key wait, applyInput mask s = { s with v := v, key := key, waitActive := wait } := by
  by_cases hf : s.fault = none
  · by_cases h : s.waitActive = false ∨ mask = 0
    · exact ⟨_, _, _, applyInput_of_not_released hf h⟩
    · obtain ⟨hwait, hmask⟩ := not_or.mp h
      obtain ⟨k, hk⟩ := Option.ne_none_iff_exists'.mp (mt lowestKey_eq_none.mp hmask)
      exact ⟨_, _, _, applyInput_of_released hf (Bool.not_eq_false _ ▸ hwait) hk⟩
  · exact ⟨_, _, _, (faultedMachineIsFrozen s hf).2.1 mask⟩

theorem applyInput_inv {s : State} (hs : s.Inv) (mask : BitVec 16) : (applyInput mask s).Inv := by
  obtain ⟨v, key, wait, hframe⟩ := applyInput_frame mask s
  rw [hframe]
  exact ⟨hs.memory, hs.dividerPos, hs.dividerLe, hs.reported, hs.explained⟩

/-- Settles O21: Reset begins the invariant anew, and the other two operations keep each part of it. -/
theorem hostOperationsKeepInvariant : Obligations.HostOperationsKeepInvariant := fun _ hs =>
  ⟨hostReset_inv hs, loadProgram_inv hs, applyInput_inv hs⟩

end Sys2Proof.Machine
